-- ==== Sys2Proof/Word.lean ====
section
/-! DEFINITION. The words of the machine: bytes, 16-bit words, nibbles, 12-bit addresses and
register numbers (spec `00_scope.md` R5, `30_encoding.md` R51). -/

namespace Sys2Proof

/-- An 8-bit value: a general register, a timer, a byte of memory, the immediate `NN`. -/
abbrev Byte := BitVec 8

/-- A 16-bit value: an instruction word, `I`, `PC`, a return address. -/
abbrev Word := BitVec 16

/-- A 4-bit half of a byte: the row count `N`, a key number. -/
abbrev Nibble := BitVec 4

/-- The 12-bit address immediate `NNN`. -/
abbrev Addr12 := BitVec 12

/-- A register number: `V[i]` "is addressed by a 4-bit index `i`" (`10_state.md` R10). -/
abbrev Reg := BitVec 4

/-- VF, register 15, which doubles as the machine's only flag (`10_state.md` R11). -/
abbrev VF : Reg := 0xF#4

end Sys2Proof
end

