-- ==== Sys2Proof/Syntax.lean ====
section
/-! DEFINITION. The instruction set: one constructor for each of the 34 rows of
`spec/opcode_table.json` (spec `30_encoding.md` R54). An operand's type has exactly the width of its
field (R51), so no value outside the field can be written. -/

namespace Sys2Proof

/-- An instruction. The docstring of a constructor is its row's pattern, assembler form and rule. -/
inductive Instr where
  /-- `00E0`, `CLS`: R110. -/
  | cls
  /-- `00EE`, `RET`: R75. -/
  | ret
  /-- `1NNN`, `JP addr`: R76. -/
  | jp (nnn : Addr12)
  /-- `2NNN`, `CALL addr`: R77. -/
  | call (nnn : Addr12)
  /-- `3XNN`, `SE Vx, byte`: R78. -/
  | seImm (x : Reg) (nn : Byte)
  /-- `4XNN`, `SNE Vx, byte`: R79. -/
  | sneImm (x : Reg) (nn : Byte)
  /-- `5XY0`, `SE Vx, Vy`: R80. -/
  | seReg (x y : Reg)
  /-- `6XNN`, `LD Vx, byte`: R87. -/
  | ldImm (x : Reg) (nn : Byte)
  /-- `7XNN`, `ADD Vx, byte`: R88. -/
  | addImm (x : Reg) (nn : Byte)
  /-- `8XY0`, `LD Vx, Vy`: R89. -/
  | ldReg (x y : Reg)
  /-- `8XY1`, `OR Vx, Vy`: R90. -/
  | orReg (x y : Reg)
  /-- `8XY2`, `AND Vx, Vy`: R91. -/
  | andReg (x y : Reg)
  /-- `8XY3`, `XOR Vx, Vy`: R92. -/
  | xorReg (x y : Reg)
  /-- `8XY4`, `ADD Vx, Vy`: R93. -/
  | addReg (x y : Reg)
  /-- `8XY5`, `SUB Vx, Vy`: R94. -/
  | sub (x y : Reg)
  /-- `8XY6`, `SHR Vx` with an optional `Vy`: R95. -/
  | shr (x y : Reg)
  /-- `8XY7`, `SUBN Vx, Vy`: R96. -/
  | subn (x y : Reg)
  /-- `8XYE`, `SHL Vx` with an optional `Vy`: R97. -/
  | shl (x y : Reg)
  /-- `9XY0`, `SNE Vx, Vy`: R81. -/
  | sneReg (x y : Reg)
  /-- `ANNN`, `LD I, addr`: R100. -/
  | ldI (nnn : Addr12)
  /-- `BNNN`, `JP V0, addr`: R82. -/
  | jpV0 (nnn : Addr12)
  /-- `CXNN`, `RND Vx, byte`: R98. -/
  | rnd (x : Reg) (nn : Byte)
  /-- `DXYN`, `DRW Vx, Vy, nibble`: R111. -/
  | drw (x y : Reg) (n : Nibble)
  /-- `EX9E`, `SKP Vx`: R115. -/
  | skp (x : Reg)
  /-- `EXA1`, `SKNP Vx`: R116. -/
  | sknp (x : Reg)
  /-- `FX07`, `LD Vx, DT`: R118. -/
  | ldVxDt (x : Reg)
  /-- `FX0A`, `LD Vx, K`: R117. -/
  | ldVxK (x : Reg)
  /-- `FX15`, `LD DT, Vx`: R119. -/
  | ldDtVx (x : Reg)
  /-- `FX18`, `LD ST, Vx`: R120. -/
  | ldStVx (x : Reg)
  /-- `FX1E`, `ADD I, Vx`: R101. -/
  | addI (x : Reg)
  /-- `FX29`, `LD F, Vx`: R102. -/
  | ldF (x : Reg)
  /-- `FX33`, `LD B, Vx`: R103. -/
  | ldB (x : Reg)
  /-- `FX55`, `LD [I], Vx`: R104; here `x` is the last register of the block. -/
  | stRegs (x : Reg)
  /-- `FX65`, `LD Vx, [I]`: R105; here `x` is the last register of the block. -/
  | ldRegs (x : Reg)
  deriving DecidableEq, Repr

end Sys2Proof
end

