-- ==== Sys2Proof/Decode.lean ====
section
/-! DEFINITION. From the 16 bits of a word to an instruction or a rejection by name, and back
(spec `30_encoding.md` R50 to R56). -/

namespace Sys2Proof

/-! ## The fields of a word (R51) -/

/-- `N1 = W[15:12]`, the major opcode. -/
def fieldN1 (w : Word) : Nibble := w.extractLsb' 12 4

/-- `X = W[11:8]`. -/
def fieldX (w : Word) : Reg := w.extractLsb' 8 4

/-- `Y = W[7:4]`. -/
def fieldY (w : Word) : Reg := w.extractLsb' 4 4

/-- `N = W[3:0]`. -/
def fieldN (w : Word) : Nibble := w.extractLsb' 0 4

/-- `NN = W[7:0]`. -/
def fieldNN (w : Word) : Byte := w.extractLsb' 0 8

/-- `NNN = W[11:0]`. -/
def fieldNNN (w : Word) : Addr12 := w.extractLsb' 0 12

/-! ## Decoding (R53) -/

/-- Why bytes are not an instruction. -/
inductive DecodeError where
  /-- The word matches no row of R54 (R56): `UnimplementedOpcode(W)`. -/
  | unimplementedOpcode (w : Word)
  /-- Fewer than two bytes: an instruction is one 16-bit word (R50). -/
  | truncated
  deriving DecidableEq, Repr

/-- Class 8: N4 in `0..7` or `E`, in the order of the source's list (R54). -/
def decodeClass8 (x y : Reg) (n4 : Nibble) : Option Instr :=
  if n4 = 0x0#4 then some (.ldReg x y)
  else if n4 = 0x1#4 then some (.orReg x y)
  else if n4 = 0x2#4 then some (.andReg x y)
  else if n4 = 0x3#4 then some (.xorReg x y)
  else if n4 = 0x4#4 then some (.addReg x y)
  else if n4 = 0x5#4 then some (.sub x y)
  else if n4 = 0x6#4 then some (.shr x y)
  else if n4 = 0x7#4 then some (.subn x y)
  else if n4 = 0xE#4 then some (.shl x y)
  else none

/-- Class E: `NN` is `9E` or `A1`. -/
def decodeClassE (x : Reg) (nn : Byte) : Option Instr :=
  if nn = 0x9E#8 then some (.skp x)
  else if nn = 0xA1#8 then some (.sknp x)
  else none

/-- Class F: `NN` is `07 0A 15 18 1E 29 33 55 65`. -/
def decodeClassF (x : Reg) (nn : Byte) : Option Instr :=
  if nn = 0x07#8 then some (.ldVxDt x)
  else if nn = 0x0A#8 then some (.ldVxK x)
  else if nn = 0x15#8 then some (.ldDtVx x)
  else if nn = 0x18#8 then some (.ldStVx x)
  else if nn = 0x1E#8 then some (.addI x)
  else if nn = 0x29#8 then some (.ldF x)
  else if nn = 0x33#8 then some (.ldB x)
  else if nn = 0x55#8 then some (.stRegs x)
  else if nn = 0x65#8 then some (.ldRegs x)
  else none

/-- Decoding by nibbles, as R53 lists them: N1 in `1 2 3 4 6 7 A B C D` selects its row whatever the
other bits are; N1 = 0 needs the whole word; 5 and 9 need N4 = 0; 8, E and F have a minor opcode. -/
def decodeClasses (w : Word) : Option Instr :=
  let n1 := fieldN1 w
  if n1 = 0x0#4 then
    (if w = 0x00E0#16 then some .cls else if w = 0x00EE#16 then some .ret else none)
  else if n1 = 0x1#4 then some (.jp (fieldNNN w))
  else if n1 = 0x2#4 then some (.call (fieldNNN w))
  else if n1 = 0x3#4 then some (.seImm (fieldX w) (fieldNN w))
  else if n1 = 0x4#4 then some (.sneImm (fieldX w) (fieldNN w))
  else if n1 = 0x5#4 then
    (if fieldN w = 0x0#4 then some (.seReg (fieldX w) (fieldY w)) else none)
  else if n1 = 0x6#4 then some (.ldImm (fieldX w) (fieldNN w))
  else if n1 = 0x7#4 then some (.addImm (fieldX w) (fieldNN w))
  else if n1 = 0x8#4 then decodeClass8 (fieldX w) (fieldY w) (fieldN w)
  else if n1 = 0x9#4 then
    (if fieldN w = 0x0#4 then some (.sneReg (fieldX w) (fieldY w)) else none)
  else if n1 = 0xA#4 then some (.ldI (fieldNNN w))
  else if n1 = 0xB#4 then some (.jpV0 (fieldNNN w))
  else if n1 = 0xC#4 then some (.rnd (fieldX w) (fieldNN w))
  else if n1 = 0xD#4 then some (.drw (fieldX w) (fieldY w) (fieldN w))
  else if n1 = 0xE#4 then decodeClassE (fieldX w) (fieldNN w)
  else decodeClassF (fieldX w) (fieldNN w)

/-- Decode one word: the instruction of the row it matches, or `UnimplementedOpcode(W)` by name
(R53, R56). "Decode reads no state but `W`" (`40_fetch_dispatch.md` R69). -/
def decode (w : Word) : Except DecodeError Instr :=
  match decodeClasses w with
  | some i => .ok i
  | none => .error (.unimplementedOpcode w)

/-- The word of two bytes, the byte at the lower address high (R50, `20_memory.md` R34). -/
def wordOfBytes (hi lo : Byte) : Word := hi ++ lo

/-- The two bytes of a word, as they lie in memory. -/
def bytesOfWord (w : Word) : List Byte := [w.extractLsb' 8 8, w.extractLsb' 0 8]

/-- Decode the first instruction of any sequence of bytes, with the bytes after it. -/
def decodeBytes : List Byte → Except DecodeError (Instr × List Byte)
  | hi :: lo :: rest =>
    match decode (wordOfBytes hi lo) with
    | .ok i => .ok (i, rest)
    | .error e => .error e
  | _ => .error .truncated

/-- The instruction the decoder reads from a word numbered as `spec/opcode_table.json` numbers it:
`w` cut to `nbits`, laid out in memory high byte first, and given to `decodeBytes`. -/
def decodeTableWord (nbits w : Nat) : Option Instr :=
  match decodeBytes (bytesOfWord (BitVec.ofNat 16 (w % 2 ^ nbits))) with
  | .ok (i, _) => some i
  | .error _ => none

/-! ## Encoding (R54) -/

/-- The word of an instruction: its row's pattern with the operands in their fields (R54). -/
def encode : Instr → Word
  | .cls => 0x00E0#16
  | .ret => 0x00EE#16
  | .jp nnn => 0x1#4 ++ nnn
  | .call nnn => 0x2#4 ++ nnn
  | .seImm x nn => 0x3#4 ++ x ++ nn
  | .sneImm x nn => 0x4#4 ++ x ++ nn
  | .seReg x y => 0x5#4 ++ x ++ y ++ 0x0#4
  | .ldImm x nn => 0x6#4 ++ x ++ nn
  | .addImm x nn => 0x7#4 ++ x ++ nn
  | .ldReg x y => 0x8#4 ++ x ++ y ++ 0x0#4
  | .orReg x y => 0x8#4 ++ x ++ y ++ 0x1#4
  | .andReg x y => 0x8#4 ++ x ++ y ++ 0x2#4
  | .xorReg x y => 0x8#4 ++ x ++ y ++ 0x3#4
  | .addReg x y => 0x8#4 ++ x ++ y ++ 0x4#4
  | .sub x y => 0x8#4 ++ x ++ y ++ 0x5#4
  | .shr x y => 0x8#4 ++ x ++ y ++ 0x6#4
  | .subn x y => 0x8#4 ++ x ++ y ++ 0x7#4
  | .shl x y => 0x8#4 ++ x ++ y ++ 0xE#4
  | .sneReg x y => 0x9#4 ++ x ++ y ++ 0x0#4
  | .ldI nnn => 0xA#4 ++ nnn
  | .jpV0 nnn => 0xB#4 ++ nnn
  | .rnd x nn => 0xC#4 ++ x ++ nn
  | .drw x y n => 0xD#4 ++ x ++ y ++ n
  | .skp x => 0xE#4 ++ x ++ 0x9E#8
  | .sknp x => 0xE#4 ++ x ++ 0xA1#8
  | .ldVxDt x => 0xF#4 ++ x ++ 0x07#8
  | .ldVxK x => 0xF#4 ++ x ++ 0x0A#8
  | .ldDtVx x => 0xF#4 ++ x ++ 0x15#8
  | .ldStVx x => 0xF#4 ++ x ++ 0x18#8
  | .addI x => 0xF#4 ++ x ++ 0x1E#8
  | .ldF x => 0xF#4 ++ x ++ 0x29#8
  | .ldB x => 0xF#4 ++ x ++ 0x33#8
  | .stRegs x => 0xF#4 ++ x ++ 0x55#8
  | .ldRegs x => 0xF#4 ++ x ++ 0x65#8

/-- The two bytes of an instruction, high byte first (R50). -/
def encodeBytes (i : Instr) : List Byte := bytesOfWord (encode i)

/-! ## The opcode table (R54) -/

/-- A row of the opcode table: its Id, its mask and its match. -/
structure OpcodeRow where
  mnemonic : String
  mask : Word
  pattern : Word
  deriving DecidableEq, Repr

/-- "For each row, `W and mask = match` selects it" (R53). -/
def OpcodeRow.selects (r : OpcodeRow) (w : Word) : Bool := decide (w &&& r.mask = r.pattern)

/-- Rows 1 to 19 of R54's table. -/
def opcodeTableLow : List OpcodeRow :=
  [ ⟨"CLS", 0xFFFF, 0x00E0⟩, ⟨"RET", 0xFFFF, 0x00EE⟩,
    ⟨"JP", 0xF000, 0x1000⟩, ⟨"CALL", 0xF000, 0x2000⟩,
    ⟨"SE_IMM", 0xF000, 0x3000⟩, ⟨"SNE_IMM", 0xF000, 0x4000⟩, ⟨"SE_REG", 0xF00F, 0x5000⟩,
    ⟨"LD_IMM", 0xF000, 0x6000⟩, ⟨"ADD_IMM", 0xF000, 0x7000⟩,
    ⟨"LD_REG", 0xF00F, 0x8000⟩, ⟨"OR", 0xF00F, 0x8001⟩, ⟨"AND", 0xF00F, 0x8002⟩,
    ⟨"XOR", 0xF00F, 0x8003⟩, ⟨"ADD_REG", 0xF00F, 0x8004⟩, ⟨"SUB", 0xF00F, 0x8005⟩,
    ⟨"SHR", 0xF00F, 0x8006⟩, ⟨"SUBN", 0xF00F, 0x8007⟩, ⟨"SHL", 0xF00F, 0x800E⟩,
    ⟨"SNE_REG", 0xF00F, 0x9000⟩ ]

/-- Rows 20 to 34 of R54's table. -/
def opcodeTableHigh : List OpcodeRow :=
  [ ⟨"LD_I", 0xF000, 0xA000⟩, ⟨"JP_V0", 0xF000, 0xB000⟩, ⟨"RND", 0xF000, 0xC000⟩,
    ⟨"DRW", 0xF000, 0xD000⟩, ⟨"SKP", 0xF0FF, 0xE09E⟩, ⟨"SKNP", 0xF0FF, 0xE0A1⟩,
    ⟨"LD_VX_DT", 0xF0FF, 0xF007⟩, ⟨"LD_VX_K", 0xF0FF, 0xF00A⟩,
    ⟨"LD_DT_VX", 0xF0FF, 0xF015⟩, ⟨"LD_ST_VX", 0xF0FF, 0xF018⟩,
    ⟨"ADD_I", 0xF0FF, 0xF01E⟩, ⟨"LD_F", 0xF0FF, 0xF029⟩, ⟨"LD_B", 0xF0FF, 0xF033⟩,
    ⟨"ST_REGS", 0xF0FF, 0xF055⟩, ⟨"LD_REGS", 0xF0FF, 0xF065⟩ ]

/-- The opcode table: "the instruction set is the 34 rows below, no more" (R54). -/
def opcodeTable : List OpcodeRow := opcodeTableLow ++ opcodeTableHigh

/-- The Id of an instruction's row (R54). -/
def Instr.mnemonic : Instr → String
  | .cls => "CLS"
  | .ret => "RET"
  | .jp _ => "JP"
  | .call _ => "CALL"
  | .seImm _ _ => "SE_IMM"
  | .sneImm _ _ => "SNE_IMM"
  | .seReg _ _ => "SE_REG"
  | .ldImm _ _ => "LD_IMM"
  | .addImm _ _ => "ADD_IMM"
  | .ldReg _ _ => "LD_REG"
  | .orReg _ _ => "OR"
  | .andReg _ _ => "AND"
  | .xorReg _ _ => "XOR"
  | .addReg _ _ => "ADD_REG"
  | .sub _ _ => "SUB"
  | .shr _ _ => "SHR"
  | .subn _ _ => "SUBN"
  | .shl _ _ => "SHL"
  | .sneReg _ _ => "SNE_REG"
  | .ldI _ => "LD_I"
  | .jpV0 _ => "JP_V0"
  | .rnd _ _ => "RND"
  | .drw _ _ _ => "DRW"
  | .skp _ => "SKP"
  | .sknp _ => "SKNP"
  | .ldVxDt _ => "LD_VX_DT"
  | .ldVxK _ => "LD_VX_K"
  | .ldDtVx _ => "LD_DT_VX"
  | .ldStVx _ => "LD_ST_VX"
  | .addI _ => "ADD_I"
  | .ldF _ => "LD_F"
  | .ldB _ => "LD_B"
  | .stRegs _ => "ST_REGS"
  | .ldRegs _ => "LD_REGS"

end Sys2Proof
end

