-- ==== Sys2Proof/Config.lean ====
section
/-! DEFINITION. The sizes of the machine, the values that configure an instance of it, and the one
free value (spec `00_scope.md` R4, `10_state.md` R23, R24). -/

namespace Sys2Proof

/-- `MEM_SIZE`: addresses 0 to 4095 exist (`00_scope.md` R4, `20_memory.md` R30). -/
abbrev memSize : Nat := 4096

/-- `PROG_BASE`: where `Load` puts a program and where execution starts (`00_scope.md` R4). -/
abbrev progBase : Nat := 0x200

/-- `PROG_MAX`: the longest program, `4096 - 0x200` bytes (`00_scope.md` R4). -/
abbrev progMax : Nat := 3584

/-- The font is `GLYPH_COUNT = 16` glyphs of `GLYPH_BYTES = 5` bytes from `FONT_BASE = 0`
(`00_scope.md` R4, `10_state.md` R22). -/
abbrev fontSize : Nat := 80

/-- The three values that configure a machine instance: "chosen when the instance is made, no
transaction changes them" (`10_state.md` R23). -/
structure Config where
  /-- `SHIFT_SRC_VY`: `8XY6` and `8XYE` shift `V[Y]` where it is true, `V[X]` where it is false. -/
  shiftSrcVY : Bool
  /-- `INDEX_INC`: `FX55` and `FX65` advance `I` by `X + 1` where it is true. -/
  indexInc : Bool
  /-- `FONT`: the bytes that `Reset` puts at addresses 0 to 79. -/
  font : Vector Byte fontSize
  deriving DecidableEq, Repr

/-- FREE VALUE: the byte the random source hands over at its `k`-th draw (`10_state.md` R24,
`60_exceptions.md` R148). Nothing constrains it, so a claim holds for every sequence of bytes
(DESIGN CHOICE, safe: log entry 6). -/
opaque Config.randomByte : Nat → Byte

end Sys2Proof
end

