-- ==== Sys2Proof/Machine/Font.lean ====
section
/-! DEFINITION. The default values of the configuration: the font table of `10_state.md` R22 and the
two options (`00_scope.md` R4). -/

namespace Sys2Proof

/-- Glyphs 0 to 7 of the table of R22, five rows each, the top row first. PRESUMED (unsafe): the spec
marks the bytes as "from general knowledge, not in source" (log entry 5). -/
def fontLow : List Byte :=
  [ 0xF0, 0x90, 0x90, 0x90, 0xF0,
    0x20, 0x60, 0x20, 0x20, 0x70,
    0xF0, 0x10, 0xF0, 0x80, 0xF0,
    0xF0, 0x10, 0xF0, 0x10, 0xF0,
    0x90, 0x90, 0xF0, 0x10, 0x10,
    0xF0, 0x80, 0xF0, 0x10, 0xF0,
    0xF0, 0x80, 0xF0, 0x90, 0xF0,
    0xF0, 0x10, 0x20, 0x40, 0x40 ]

/-- Glyphs 8 to F of the table of R22. PRESUMED (unsafe): as `fontLow` (log entry 5). -/
def fontHigh : List Byte :=
  [ 0xF0, 0x90, 0xF0, 0x90, 0xF0,
    0xF0, 0x90, 0xF0, 0x10, 0xF0,
    0xF0, 0x90, 0xF0, 0x90, 0x90,
    0xE0, 0x90, 0xE0, 0x90, 0xE0,
    0xF0, 0x80, 0x80, 0x80, 0xF0,
    0xE0, 0x90, 0x90, 0x90, 0xE0,
    0xF0, 0x80, 0xF0, 0x80, 0xF0,
    0xF0, 0x80, 0xF0, 0x80, 0x80 ]

/-- The default value of the parameter `FONT`: the 80 bytes of R22. -/
def defaultFont : Vector Byte fontSize := ⟨(fontLow ++ fontHigh).toArray, by decide⟩

/-- The default configuration: "the behaviour with both options `false` is the behaviour the source's
§4.1 opcode list states" (`00_scope.md` R4), and the font table of R22. -/
def Config.default : Config := { shiftSrcVY := false, indexInc := false, font := defaultFont }

end Sys2Proof
end

