-- ==== Sys2Proof/Machine/State.lean ====
section
/-! DEFINITION. The state of the machine as plain data: the eleven items of `10_state.md`, and three
fields of the model's own (`outcome`, `draws`, `config`; INVENTORY.md, State). -/

namespace Sys2Proof.Machine

/-- Memory: (address, byte) pairs, addresses strictly rising, no entry equal to what an unlisted
address reads as (`Memory.wf`). -/
abbrev Memory := List Host.Cell

/-- The display buffer, a "64×32 one-bit-per-pixel grid" (`10_state.md` R17): row `y` is entry `y`,
and column `x` is the `x`-th bit of the row counted from its most significant bit, so that a row
read as a binary number is the row of the picture from left to right (log entry 16). -/
abbrev Screen := Vector (BitVec 64) 32

/-- The three fatal conditions, the values of the latch `FAULT` other than None (`10_state.md` R21,
`60_exceptions.md` R125). A step that raises one answers a NEXT state with the condition latched, as
`60_exceptions.md` R131 and R132 say; no step of this model ends in `Host.Outcome.fault` (log entry 1).
Safe: after one of them no instruction executes until `Reset`. -/
inductive Fault where
  /-- Raised by `2NNN` when `SP = 16` (R127). Safe: nothing is pushed and the machine halts. -/
  | stackOverflow
  /-- Raised by `00EE` when `SP = 0` (R128). Safe: nothing is popped and the machine halts. -/
  | stackUnderflow
  /-- Raised by the fetch, `DXYN`, `FX33`, `FX55`, `FX65` for an address above 4095, and by `EX9E`,
  `EXA1` for a key index above 15 (R129). Safe: nothing is read or written and the machine halts. -/
  | addressError
  deriving DecidableEq, Repr

/-- Why an instruction has no meaning. -/
inductive Refusal where
  /-- Raised by an arm of `exec` whose instruction has no meaning yet; no arm does. Safe. -/
  | notModelled (mnemonic : String)
  deriving DecidableEq, Repr

/-- What a `Step` returns (`40_fetch_dispatch.md` R65 and section 2). -/
inductive StepOutcome where
  /-- "a matched instruction ran and raised nothing" -/
  | ok
  /-- "no pattern matched `W`" -/
  | unimplemented (w : Word)
  /-- "the fetch or the instruction raised `c`": the condition, its information (an address or a key
  index, a natural number) and the address of the instruction. -/
  | fatal (c : Fault) (info : Nat) (pc : Word)
  /-- "`FAULT = c != None` on entry" -/
  | halted (c : Fault)
  deriving DecidableEq, Repr

/-- The state of the machine (`10_state.md`, the table of state). -/
structure State where
  /-- `V[0]`..`V[15]`, 8 bits each (R10, R11). -/
  v : Vector Byte 16
  /-- The index register `I`, 16 bits (R12). -/
  i : Word
  /-- The program counter `PC`, 16 bits (R13). -/
  pc : Word
  /-- The stack pointer `SP`, the number of return addresses held, 0 to 16 (R14). -/
  sp : Fin 17
  /-- `STACK[0]`..`STACK[15]`, 16 bits each (R15). -/
  stack : Vector Word 16
  /-- `MEM`, 4096 bytes (R16). -/
  mem : Memory
  /-- The display buffer `FB` (R17). -/
  fb : Screen
  /-- The input latch `KEY[0]`..`KEY[15]`; true means pressed (R18). -/
  key : Vector Bool 16
  /-- The delay timer `DT`, 8 bits (R19). -/
  dt : Byte
  /-- The sound timer `ST`, 8 bits (R20). -/
  st : Byte
  /-- The latch `FAULT` (R21). -/
  fault : Option Fault
  /-- The model's own: what the latest `Step` returned (log entry 2). -/
  outcome : StepOutcome
  /-- The model's own: how many bytes the random source has handed over (log entry 6). -/
  draws : Nat
  /-- The model's own: the configuration of this machine instance, which nothing changes (R23; log
  entry 4). -/
  config : Config
  deriving DecidableEq, Repr

/-- The state after `Reset` of an instance with configuration `c` whose random source has handed over
`k` bytes: every value is the one of `10_state.md` R25; the configuration and the random source "are
not changed by reset". -/
def State.resetWith (c : Config) (k : Nat) : State where
  v := Vector.replicate 16 0#8
  i := 0#16
  pc := 0x0200#16
  sp := 0
  stack := Vector.replicate 16 0#16
  mem := []
  fb := Vector.replicate 32 0#64
  key := Vector.replicate 16 false
  dt := 0#8
  st := 0#8
  fault := none
  outcome := .ok
  draws := k
  config := c

/-- The machine right after reset, with the default configuration (R4, R25). -/
def State.reset : State := State.resetWith Config.default 0

end Sys2Proof.Machine
end

