-- ==== Sys2Proof/Machine/Memory.lean ====
section
/-! DEFINITION. Memory as one canonical list of bytes, its reads and its writes (spec
`20_memory.md` R30 to R45). -/

namespace Sys2Proof.Machine

/-- What an address that memory does not list reads as, which is its value at reset: the font at
0x000 to 0x04F and 0x00 elsewhere (`10_state.md` R16, R25; log entries 5 and 7). -/
def resetByte (c : Config) (a : Nat) : Byte :=
  if h : a < fontSize then c.font[a] else 0#8

/-- The byte at an address. -/
def Memory.get (c : Config) : Memory → Nat → Byte
  | [], a => resetByte c a
  | (k, b) :: m, a => if a = k then b else Memory.get c m a

/-- An entry in front of a memory, left out where the byte is what an unlisted address reads as. -/
def Memory.put (c : Config) (a : Nat) (b : Byte) (m : Memory) : Memory :=
  if b = resetByte c a then m else (a, b) :: m

/-- The memory with one byte changed: "a write stores exactly the byte written" (`20_memory.md` R37).
It keeps the canonical form. -/
def Memory.set (c : Config) : Memory → Nat → Byte → Memory
  | [], a, b => Memory.put c a b []
  | (k, d) :: m, a, b =>
    if a < k then Memory.put c a b ((k, d) :: m)
    else if a = k then Memory.put c a b m
    else (k, d) :: Memory.set c m a b

/-- Bytes stored at rising addresses from `a`. -/
def Memory.setRun (c : Config) : Memory → Nat → List Byte → Memory
  | m, _, [] => m
  | m, a, b :: bs => Memory.setRun c (Memory.set c m a b) (a + 1) bs

/-- The `len` bytes at rising addresses from `a`. -/
def Memory.getRun (c : Config) (m : Memory) : Nat → Nat → List Byte
  | _, 0 => []
  | a, len + 1 => Memory.get c m a :: Memory.getRun c m (a + 1) len

/-- The canonical form: addresses strictly rising and inside `0..4095`, no entry equal to what an
unlisted address reads as. -/
abbrev Memory.wf (c : Config) (m : Memory) : Prop :=
  m.Pairwise (fun p q => p.1 < q.1) ∧ ∀ p ∈ m, p.1 < memSize ∧ p.2 ≠ resetByte c p.1

/-- `MemRead(a, 1)`: the byte at `a`, or none where `a > 4095` ("`a` is a natural number, never
reduced modulo anything before the check", `00_scope.md` R5, `20_memory.md` R32). -/
def State.memRead (s : State) (a : Nat) : Option Byte :=
  if a < memSize then some (s.mem.get s.config a) else none

/-- The check of a run of `len` addresses from `base` before the first access: the lowest address of
the run that lies above 4095, if there is one (`43_index_memory.md` R106). -/
def runFault? (base len : Nat) : Option Nat :=
  if len > 0 ∧ base + len - 1 > 4095 then some (max base 4096) else none

end Sys2Proof.Machine
end

