-- ==== Sys2Proof/Machine/Ops.lean ====
section
/-! DEFINITION. The operations every meaning is written with: one writer per register or store, the
call stack, the key latch, raising a condition, and the parts of a `Step` around an instruction
(spec `10_state.md`, `40_fetch_dispatch.md`, `60_exceptions.md`). -/

namespace Sys2Proof.Machine

/-- What a meaning and a step answer. -/
abbrev Result := Host.Outcome State Fault Refusal

/-! ## Registers -/

/-- Read of `V[x]` (`10_state.md` R10). -/
def State.reg (s : State) (x : Reg) : Byte := s.v[x.toNat]'(x.isLt)

/-- `V[x] <- b` (R10). No register is hardwired. -/
def State.setReg (s : State) (x : Reg) (b : Byte) : State :=
  { s with v := s.v.set x.toNat b x.isLt }

/-- The whole register file replaced. -/
def State.setRegs (s : State) (v : Vector Byte 16) : State := { s with v := v }

/-- `I <- w` (R12). -/
def State.setI (s : State) (w : Word) : State := { s with i := w }

/-- `PC <- w` (R13). -/
def State.setPc (s : State) (w : Word) : State := { s with pc := w }

/-- `DT <- b` (R19). -/
def State.setDt (s : State) (b : Byte) : State := { s with dt := b }

/-- `ST <- b` (R20). -/
def State.setSt (s : State) (b : Byte) : State := { s with st := b }

/-- `KEY[k] <- p` (R18). -/
def State.setKey (s : State) (k : Nibble) (p : Bool) : State :=
  { s with key := s.key.set k.toNat p k.isLt }

/-- The display replaced (R17). -/
def State.setFb (s : State) (fb : Screen) : State := { s with fb := fb }

/-- Bytes stored to memory at rising addresses from `a` (`20_memory.md` R37). -/
def State.storeRun (s : State) (a : Nat) (bs : List Byte) : State :=
  { s with mem := s.mem.setRun s.config a bs }

/-- The bytes of memory at rising addresses from `a`. -/
def State.loadRun (s : State) (a len : Nat) : List Byte := s.mem.getRun s.config a len

/-- The byte the random source hands over next: a free value (`60_exceptions.md` R148). -/
def State.nextRandom (s : State) : Byte := Config.randomByte s.draws

/-- The random source has handed over one byte more: "one byte consumed per execution"
(`42_load_alu.md` R98). -/
def State.consumeRandom (s : State) : State := { s with draws := s.draws + 1 }

/-! ## Program counter and skips -/

/-- The address `a` of the executing instruction. While it executes `PC` is `a + 2`
(`40_fetch_dispatch.md` R68). -/
def State.insnAddr (s : State) : Word := s.pc - 2#16

/-- A skip: `if p: PC <- (PC + 2) mod 65536` (`41_control_flow.md` R78). -/
def skipIf (p : Bool) (s : State) : State := if p then s.setPc (s.pc + 2#16) else s

/-! ## Call stack -/

/-- `STACK[SP] <- w; SP <- SP + 1`, or none where `SP = 16` (`10_state.md` R14, R15,
`41_control_flow.md` R77). -/
def State.push? (s : State) (w : Word) : Option State :=
  if h : s.sp.val < 16 then
    some { s with stack := s.stack.set s.sp.val w h, sp := ⟨s.sp.val + 1, by omega⟩ }
  else none

/-- `SP <- SP - 1`, with the word `STACK[SP]` then names, or none where `SP = 0` (R75). The slot keeps
its value (R15). -/
def State.pop? (s : State) : Option (Word × State) :=
  if h : 0 < s.sp.val then
    some (s.stack[s.sp.val - 1]'(by omega), { s with sp := ⟨s.sp.val - 1, by omega⟩ })
  else none

/-! ## Keys -/

/-- The latch of key number `k`, or none where `k > 15` (`45_keys_timers.md` R121). -/
def State.keyAt? (s : State) (k : Byte) : Option Bool :=
  if h : k.toNat < 16 then some s.key[k.toNat] else none

/-- The lowest-indexed pressed key, or none where no key is pressed (R117). -/
def State.lowestKey? (s : State) : Option Nat := s.key.toList.findIdx? id

/-! ## Conditions

"Raising a condition saves nothing and transfers control nowhere" (`60_exceptions.md` R137): it sets
the latch and is what the `Step` returns. "There is no return-from-trap instruction" (R138), so no
return stands beside it; only `Reset` clears the latch (R133). -/

/-- `FAULT <- c`, and the `Step` returns `Fatal(c, info, at)`. -/
def State.latch (s : State) (c : Fault) (info : Nat) (pc : Word) : State :=
  { s with fault := some c, outcome := .fatal c info pc }

/-- TAKING A FATAL CONDITION in the execute part: `FAULT` holds it, `PC` stays `a + 2`, every other
piece of state is as it was (`60_exceptions.md` R132; log entry 11). -/
def raise (c : Fault) (info : Nat) (s : State) : Result := .next (s.latch c info s.insnAddr)

/-- The numeric code of a fatal condition (`60_exceptions.md` R125, the spec's D10). -/
def Fault.code : Fault → Nat
  | .stackOverflow => 2
  | .stackUnderflow => 3
  | .addressError => 4

/-! ## The parts of a `Step` around an instruction (`40_fetch_dispatch.md`) -/

/-- The fetch: the big-endian word at `PC`, or none where one of its two bytes lies above 4095
(R67). No alignment check. -/
def State.fetch (s : State) : Option Word :=
  match s.memRead s.pc.toNat, s.memRead (s.pc.toNat + 1) with
  | some hi, some lo => some (wordOfBytes hi lo)
  | _, _ => none

/-- The advance: `PC <- a + 2` before the instruction executes (R68), and the `Step` returns `Ok`
unless the instruction raises a condition (R71). -/
def State.advance (s : State) : State := { s with pc := s.pc + 2#16, outcome := .ok }

/-- A fetch fault: `AddressError` with the first offending address, latched; `PC` is not advanced
(R67, `60_exceptions.md` R131; log entry 11). -/
def State.fetchFault (s : State) : State := s.latch .addressError (max s.pc.toNat 4096) s.pc

/-- An unmatched word: the `Step` returns `Unimplemented(W)`, `PC` is advanced, nothing else changes
(R70; log entry 3). -/
def State.reportUnimplemented (s : State) (w : Word) : State :=
  { s with pc := s.pc + 2#16, outcome := .unimplemented w }

/-- A halted machine: the `Step` returns `Halted(FAULT)` and nothing changes (R66). -/
def State.reportHalted (s : State) (c : Fault) : State := { s with outcome := .halted c }

end Sys2Proof.Machine
end

