-- ==== Sys2Proof/Machine/Operands.lean ====
section
/-! DEFINITION. Every operand form: register operands, immediates, the shift source, the implicit
base `I` and the runs of registers and addresses (spec `30_encoding.md` R52, `43_index_memory.md`). -/

namespace Sys2Proof.Machine

/-- `zext_16(NNN)`: "`NNN` (12 bits) is zero-extended to 16 bits" (`30_encoding.md` R52). -/
def immAddr (nnn : Addr12) : Word := nnn.setWidth 16

/-- `zext_16` of a register's byte (R52, `43_index_memory.md` R101). -/
def zext16 (b : Byte) : Word := b.setWidth 16

/-- The operand that `8XY6` and `8XYE` shift: `V[Y]` where `SHIFT_SRC_VY` is true, else `V[X]`
(`42_load_alu.md` R95). -/
def shiftSource (x y : Reg) (s : State) : Byte :=
  if s.config.shiftSrcVY then s.reg y else s.reg x

/-- The base address of a memory instruction: `I` as a natural number, never wrapped
(`20_memory.md` R33). -/
def baseAddr (s : State) : Nat := s.i.toNat

/-- The bytes `FX55` stores: `V[0]..V[X]`, `X + 1` registers (`43_index_memory.md` R104). -/
def regRun (x : Reg) (s : State) : List Byte := s.v.toList.take (x.toNat + 1)

/-- The register file after `FX65`: `V[r] <- MEM[I + r]` for `r` in `0..X`, the others as they were
(R105). -/
def loadedRegs (x : Reg) (s : State) : Vector Byte 16 :=
  Vector.ofFn fun r : Fin 16 =>
    if r.val ≤ x.toNat then s.mem.get s.config (baseAddr s + r.val) else s.v[r]

/-- `if INDEX_INC: I <- (I + X + 1) mod 65536`, the end of `FX55` and `FX65` (R104, R105). -/
def incIndex (x : Reg) (s : State) : State :=
  if s.config.indexInc then s.setI (s.i + x.setWidth 16 + 1#16) else s

/-- The three bytes `FX33` stores: the hundreds, tens and ones digits (R103). -/
def decimalDigits (b : Byte) : List Byte :=
  [ BitVec.ofNat 8 (b.toNat / 100), BitVec.ofNat 8 (b.toNat / 10 % 10),
    BitVec.ofNat 8 (b.toNat % 10) ]

/-- The column at which `DXYN` starts: `V[X] mod 64` (`44_display.md` R112(a)). -/
def drawColumn (x : Reg) (s : State) : Nat := (s.reg x).toNat % 64

/-- The row at which `DXYN` starts: `V[Y] mod 32` (R112(a)). -/
def drawRow (y : Reg) (s : State) : Nat := (s.reg y).toNat % 32

end Sys2Proof.Machine
end

