-- ==== Sys2Proof/Machine/ControlFlow.lean ====
section
/-! DEFINITION. The meanings of `00EE 1NNN 2NNN 3XNN 4XNN 5XY0 9XY0 BNNN` (spec
`41_control_flow.md`). In every meaning `PC` already holds `a + 2`. -/

namespace Sys2Proof.Machine

/-- `00EE` RET (R75). -/
def execRet (s : State) : Result :=
  match s.pop? with
  | some (w, s') => .next (s'.setPc w)
  | none => raise .stackUnderflow s.insnAddr.toNat s

/-- `1NNN` JP (R76). -/
def execJp (nnn : Addr12) (s : State) : Result := .next (s.setPc (immAddr nnn))

/-- `2NNN` CALL (R77): pushes `PC`, which is `a + 2`. -/
def execCall (nnn : Addr12) (s : State) : Result :=
  match s.push? s.pc with
  | some s' => .next (s'.setPc (immAddr nnn))
  | none => raise .stackOverflow s.insnAddr.toNat s

/-- `3XNN` SE Vx, byte (R78). -/
def execSeImm (x : Reg) (nn : Byte) (s : State) : Result :=
  .next (skipIf (decide (s.reg x = nn)) s)

/-- `4XNN` SNE Vx, byte (R79). -/
def execSneImm (x : Reg) (nn : Byte) (s : State) : Result :=
  .next (skipIf (decide (s.reg x ≠ nn)) s)

/-- `5XY0` SE Vx, Vy (R80). -/
def execSeReg (x y : Reg) (s : State) : Result :=
  .next (skipIf (decide (s.reg x = s.reg y)) s)

/-- `9XY0` SNE Vx, Vy (R81). -/
def execSneReg (x y : Reg) (s : State) : Result :=
  .next (skipIf (decide (s.reg x ≠ s.reg y)) s)

/-- `BNNN` JP V0, addr (R82): the sum fits 16 bits and is not reduced modulo 4096. -/
def execJpV0 (nnn : Addr12) (s : State) : Result :=
  .next (s.setPc (zext16 (s.reg 0#4) + immAddr nnn))

end Sys2Proof.Machine
end

