-- ==== Sys2Proof/Machine/Flags.lean ====
section
/-! DEFINITION. Every flag computation: VF is the only flag and six instructions write it, as 0 or 1
(spec `10_state.md` R11, `42_load_alu.md` R85 and R86, `44_display.md` R111). -/

namespace Sys2Proof.Machine

/-- A flag as a byte: 1 or 0. -/
def flagByte (p : Bool) : Byte := if p then 1#8 else 0#8

/-- The carry of `8XY4`: "1 if s > 255 else 0", `s` the true sum (`42_load_alu.md` R93). -/
def carryFlag (x y : Byte) : Bool := decide (x.toNat + y.toNat > 255)

/-- No borrow of `a - b`: the minuend is at least the subtrahend (R94, R96). -/
def noBorrowFlag (a b : Byte) : Bool := decide (b.toNat ≤ a.toNat)

/-- The bit a right shift drops: bit 0 (R95). -/
def shiftedOutRight (b : Byte) : Bool := b.getLsbD 0

/-- The bit a left shift drops: bit 7 (R97). -/
def shiftedOutLeft (b : Byte) : Bool := b.getLsbD 7

/-- "writes the result to `V[X]`, and last ... writes the flag to `V[0xF]`" (R86): with `X = 0xF` the
flag is what remains (log entry 13). -/
def State.setRegFlag (s : State) (x : Reg) (b : Byte) (p : Bool) : State :=
  (s.setReg x b).setReg VF (flagByte p)

end Sys2Proof.Machine
end

