-- ==== Sys2Proof/Machine/Display.lean ====
section
/-! DEFINITION. The display buffer cell by cell, the XOR draw engine, and the meanings of `00E0` and
`DXYN` (spec `44_display.md`, `10_state.md` R17). -/

namespace Sys2Proof.Machine

/-- `FB[y][x]`: 1 is a set pixel (`10_state.md` R17). -/
def Screen.cell (fb : Screen) (x : Fin 64) (y : Fin 32) : Bool := fb[y].getMsbD x

/-- `FB[y][x] <- FB[y][x] xor 1`. -/
def Screen.flip (fb : Screen) (x : Fin 64) (y : Fin 32) : Screen :=
  fb.set y (fb[y] ^^^ (1#64 <<< (63 - x.val)))

/-- The display with every cell 0 (`44_display.md` R110). -/
def blankScreen : Screen := Vector.replicate 32 0#64

/-- A drawing under way: the display, and whether a cell has gone from 1 to 0 (R111). -/
structure Drawing where
  screen : Screen
  collision : Bool
  deriving DecidableEq, Repr

/-- One sprite bit of 1 at column `x`, row `y`: "if FB[y][x] = 1: collision <- 1", then the cell is
inverted (R111). -/
def plot (x : Fin 64) (y : Fin 32) (d : Drawing) : Drawing :=
  { screen := Screen.flip d.screen x y, collision := d.collision || Screen.cell d.screen x y }

/-- The columns `cs` of one sprite byte: bit 7 is the leftmost pixel and "each pixel wraps at the right
edge to the left" (R111, R112(b) and (c); log entries 16 and 17). -/
def plotColumns (b : Byte) (x0 : Nat) (y : Fin 32) : List Nat → Drawing → Drawing
  | [], d => d
  | c :: cs, d =>
    plotColumns b x0 y cs (if b.getMsbD c then plot (Fin.ofNat 64 (x0 + c)) y d else d)

/-- The rows of a sprite from row `y0` down: "rows wrap at the bottom to the top" (R111). -/
def plotRows (x0 : Nat) : Nat → List Byte → Drawing → Drawing
  | _, [], d => d
  | y, b :: bs, d =>
    plotRows x0 (y + 1) bs (plotColumns b x0 (Fin.ofNat 32 y) [0, 1, 2, 3, 4, 5, 6, 7] d)

/-- A whole sprite at column `x0`, row `y0`, with no collision at the start. -/
def drawSprite (fb : Screen) (x0 y0 : Nat) (sprite : List Byte) : Drawing :=
  plotRows x0 y0 sprite { screen := fb, collision := false }

/-- `00E0` CLS (R110). -/
def execCls (s : State) : Result := .next (s.setFb blankScreen)

/-- `DXYN` DRW (R111): the sprite's run is checked first, `V[X]` and `V[Y]` are read before VF is
written (R112(d)), and VF is the collision of the whole sprite. -/
def execDrw (x y : Reg) (n : Nibble) (s : State) : Result :=
  match runFault? (baseAddr s) n.toNat with
  | some a => raise .addressError a s
  | none =>
    let d := drawSprite s.fb (drawColumn x s) (drawRow y s) (s.loadRun (baseAddr s) n.toNat)
    .next ((s.setFb d.screen).setReg VF (flagByte d.collision))

end Sys2Proof.Machine
end

