-- ==== Sys2Proof/Machine/IndexMemory.lean ====
section
/-! DEFINITION. The meanings of `ANNN FX1E FX29 FX33 FX55 FX65` (spec `43_index_memory.md`). A run of
addresses is checked whole before the first access (R106). -/

namespace Sys2Proof.Machine

/-- `ANNN` LD I, addr (R100). -/
def execLdI (nnn : Addr12) (s : State) : Result := .next (s.setI (immAddr nnn))

/-- `FX1E` ADD I, Vx (R101): modulo 65536, VF not written. -/
def execAddI (x : Reg) (s : State) : Result := .next (s.setI (s.i + zext16 (s.reg x)))

/-- `FX29` LD F, Vx (R102): all 8 bits of `V[X]` are used. -/
def execLdF (x : Reg) (s : State) : Result := .next (s.setI (zext16 (s.reg x) * 5#16))

/-- `FX33` LD B, Vx (R103). -/
def execLdB (x : Reg) (s : State) : Result :=
  match runFault? (baseAddr s) 3 with
  | some a => raise .addressError a s
  | none => .next (s.storeRun (baseAddr s) (decimalDigits (s.reg x)))

/-- `FX55` LD [I], Vx (R104): `X + 1` registers. -/
def execStRegs (x : Reg) (s : State) : Result :=
  match runFault? (baseAddr s) (x.toNat + 1) with
  | some a => raise .addressError a s
  | none => .next (incIndex x (s.storeRun (baseAddr s) (regRun x s)))

/-- `FX65` LD Vx, [I] (R105): `X + 1` registers. -/
def execLdRegs (x : Reg) (s : State) : Result :=
  match runFault? (baseAddr s) (x.toNat + 1) with
  | some a => raise .addressError a s
  | none => .next (incIndex x (s.setRegs (loadedRegs x s)))

end Sys2Proof.Machine
end

