-- ==== Sys2Proof/Machine/KeysTimers.lean ====
section
/-! DEFINITION. The meanings of `EX9E EXA1 FX0A FX07 FX15 FX18` (spec `45_keys_timers.md`). In every
meaning `PC` already holds `a + 2`. -/

namespace Sys2Proof.Machine

/-- `EX9E` SKP (R115): the key is number `V[X]`; above 15 it is an `AddressError` (R121; log entry
12). -/
def execSkp (x : Reg) (s : State) : Result :=
  match s.keyAt? (s.reg x) with
  | some p => .next (skipIf p s)
  | none => raise .addressError (s.reg x).toNat s

/-- `EXA1` SKNP (R116). -/
def execSknp (x : Reg) (s : State) : Result :=
  match s.keyAt? (s.reg x) with
  | some p => .next (skipIf (!p) s)
  | none => raise .addressError (s.reg x).toNat s

/-- `FX0A` LD Vx, K (R117): with no key pressed `PC` goes back to `a`; else `V[X]` is the
lowest-indexed pressed key. -/
def execLdVxK (x : Reg) (s : State) : Result :=
  match s.lowestKey? with
  | some k => .next (s.setReg x (BitVec.ofNat 8 k))
  | none => .next (s.setPc (s.pc - 2#16))

/-- `FX07` LD Vx, DT (R118). -/
def execLdVxDt (x : Reg) (s : State) : Result := .next (s.setReg x s.dt)

/-- `FX15` LD DT, Vx (R119). -/
def execLdDtVx (x : Reg) (s : State) : Result := .next (s.setDt (s.reg x))

/-- `FX18` LD ST, Vx (R120). -/
def execLdStVx (x : Reg) (s : State) : Result := .next (s.setSt (s.reg x))

end Sys2Proof.Machine
end

