-- ==== Sys2Proof/Machine/LoadAlu.lean ====
section
/-! DEFINITION. The meanings of `6XNN 7XNN 8XY0 8XY1 8XY2 8XY3 8XY4 8XY5 8XY6 8XY7 8XYE CXNN` (spec
`42_load_alu.md`). Operands are read before any register is written (R86). -/

namespace Sys2Proof.Machine

/-- `6XNN` LD Vx, byte (R87). -/
def execLdImm (x : Reg) (nn : Byte) (s : State) : Result := .next (s.setReg x nn)

/-- `7XNN` ADD Vx, byte (R88): truncated to 8 bits, no flag. -/
def execAddImm (x : Reg) (nn : Byte) (s : State) : Result := .next (s.setReg x (s.reg x + nn))

/-- `8XY0` LD Vx, Vy (R89). -/
def execLdReg (x y : Reg) (s : State) : Result := .next (s.setReg x (s.reg y))

/-- `8XY1` OR (R90): VF is not written as a flag (log entry 14). -/
def execOr (x y : Reg) (s : State) : Result := .next (s.setReg x (s.reg x ||| s.reg y))

/-- `8XY2` AND (R91). -/
def execAnd (x y : Reg) (s : State) : Result := .next (s.setReg x (s.reg x &&& s.reg y))

/-- `8XY3` XOR (R92). -/
def execXor (x y : Reg) (s : State) : Result := .next (s.setReg x (s.reg x ^^^ s.reg y))

/-- `8XY4` ADD Vx, Vy (R93). -/
def execAddReg (x y : Reg) (s : State) : Result :=
  .next (s.setRegFlag x (s.reg x + s.reg y) (carryFlag (s.reg x) (s.reg y)))

/-- `8XY5` SUB (R94): `V[X] - V[Y]`. -/
def execSub (x y : Reg) (s : State) : Result :=
  .next (s.setRegFlag x (s.reg x - s.reg y) (noBorrowFlag (s.reg x) (s.reg y)))

/-- `8XY6` SHR (R95): one bit to the right, a 0 enters at the top. -/
def execShr (x y : Reg) (s : State) : Result :=
  .next (s.setRegFlag x (shiftSource x y s >>> 1) (shiftedOutRight (shiftSource x y s)))

/-- `8XY7` SUBN (R96): `V[Y] - V[X]`. -/
def execSubn (x y : Reg) (s : State) : Result :=
  .next (s.setRegFlag x (s.reg y - s.reg x) (noBorrowFlag (s.reg y) (s.reg x)))

/-- `8XYE` SHL (R97): one bit to the left, truncated to 8 bits. -/
def execShl (x y : Reg) (s : State) : Result :=
  .next (s.setRegFlag x (shiftSource x y s <<< 1) (shiftedOutLeft (shiftSource x y s)))

/-- `CXNN` RND (R98): the next random byte, masked; one byte is consumed even where `NN = 0`. -/
def execRnd (x : Reg) (nn : Byte) (s : State) : Result :=
  .next (s.consumeRandom.setReg x (s.nextRandom &&& nn))

end Sys2Proof.Machine
end

