-- ==== Sys2Proof/Machine/Step.lean ====
section
/-! DEFINITION. One `Step`: halt check, fetch, advance, decode, execute (spec `40_fetch_dispatch.md`
R65 to R72), and how the host places one instruction where the next `Step` fetches it. -/

namespace Sys2Proof.Machine

/-- `Step` (R65): the checks are made in the order of `60_exceptions.md` R136. -/
def step (s : State) : Host.Outcome State Fault Refusal :=
  match s.fault with
  | some c => .next (s.reportHalted c)
  | none =>
    match s.fetch with
    | none => .next s.fetchFault
    | some w =>
      match decode w with
      | .error _ => .next (s.reportUnimplemented w)
      | .ok i => exec i s.advance

/-- Where an instruction can be placed for the next `Step`: a `PC` whose fetch lies in memory, else
the entry point 0x0200. -/
def State.fetchable (s : State) : State :=
  if s.pc.toNat + 1 < memSize then { s with fault := none }
  else { s with fault := none, pc := 0x0200#16 }

/-- The state with the instruction of word `w` (numbered as the opcode table numbers it) stored, high
byte first, at `PC`. A latched `FAULT` is cleared and a `PC` outside memory set to 0x0200, because a
`Step` could not fetch otherwise; nothing else changes. From reset it is the `Load` of a program of
one instruction (log entry 10). -/
def State.withFetchWord (s : State) (nbits w : Nat) : State :=
  s.fetchable.storeRun s.fetchable.pc.toNat (bytesOfWord (BitVec.ofNat 16 (w % 2 ^ nbits)))

end Sys2Proof.Machine
end

