-- ==== Sys2Proof/WellFormed.lean ====
section
/-! DEFINITION. The check on what is given to the machine from outside: a program image
(spec `30_encoding.md` R61). An instruction needs no check of its own: every operand of `Instr` has
exactly the width of its field, and "all 16 values" of `X` and `Y` and every immediate are legal
(R52), so an ill-formed instruction cannot be written down. -/

namespace Sys2Proof

/-- A program image: "a sequence of bytes with no header"; byte `j` goes to address `0x200 + j`
(`30_encoding.md` R61). -/
abbrev Program := List Byte

/-- "The image may be at most 3584 bytes" (R61). `len` may be 0 and may be odd (`20_memory.md` R47). -/
def Program.wellFormed (p : Program) : Bool := decide (p.length ≤ progMax)

end Sys2Proof
end

