-- ==== Sys2Proof/Machine/Transactions.lean ====
section
/-! DEFINITION. The host's transactions (spec `60_exceptions.md` section 8). Each is atomic, and a run
is a list of transactions in the order the host issues them (R150, R158; log entries 9 and 21). -/

namespace Sys2Proof.Machine

/-- The seven transactions of R150. A key index has 4 bits, so none is out of range (R155). -/
inductive Transaction where
  | reset
  | load (bytes : Program)
  | step
  | tickTimers
  | setKey (k : Nibble) (pressed : Bool)
  | readDisplay
  | readSoundActive
  deriving DecidableEq, Repr

/-- What a transaction returns (R150, the column Returns). -/
inductive Response where
  | done
  | loaded
  /-- `Load` of more than 3584 bytes; the information is the length (R125, R134). -/
  | capacityError (len : Nat)
  | stepped (o : StepOutcome)
  /-- The 2048 cells, row-major (R147, `10_state.md` R17). -/
  | display (cells : List Bool)
  | soundActive (p : Bool)
  deriving DecidableEq, Repr

/-- `Reset` (R151, `70_reset_and_hazards.md` R160): every piece of state to its reset value; the
configuration and the random source are not affected. -/
def State.hostReset (s : State) : State := State.resetWith s.config s.draws

/-- `Load(bytes)` (R152, `20_memory.md` R47): the bytes at 0x200 and up and nothing else, or none for
`CapacityError`. -/
def State.hostLoad? (s : State) (bytes : Program) : Option State :=
  if bytes.wellFormed then some (s.storeRun progBase bytes) else none

/-- One timer's tick: down by 1, clamped at 0 (R143). -/
def tickDown (b : Byte) : Byte := if b = 0#8 then 0#8 else b - 1#8

/-- `TickTimers` (R143). -/
def State.tickTimers (s : State) : State := (s.setDt (tickDown s.dt)).setSt (tickDown s.st)

/-- `ReadDisplay` (R147): all 2048 cells, row-major. -/
def State.readDisplay (s : State) : List Bool :=
  (List.finRange 32).flatMap fun y => (List.finRange 64).map fun x => Screen.cell s.fb x y

/-- `ReadSoundActive` (R144): true iff `ST != 0`. -/
def State.readSoundActive (s : State) : Bool := decide (s.st ≠ 0#8)

/-- One transaction: what it returns and the state after it (R150). -/
def transact (t : Transaction) (s : State) : Host.Outcome (Response × State) Fault Refusal :=
  match t with
  | .reset => .next (.done, s.hostReset)
  | .load bytes =>
    match s.hostLoad? bytes with
    | some s' => .next (.loaded, s')
    | none => .next (.capacityError bytes.length, s)
  | .step =>
    match step s with
    | .next s' => .next (.stepped s'.outcome, s')
    | .fault r => .fault r
    | .refused r => .refused r
  | .tickTimers => .next (.done, s.tickTimers)
  | .setKey k p => .next (.done, s.setKey k p)
  | .readDisplay => .next (.display s.readDisplay, s)
  | .readSoundActive => .next (.soundActive s.readSoundActive, s)

/-- A run: the host's transactions one after another, with what they returned (R158). -/
def runTransactions : List Transaction → State → Host.Outcome (List Response × State) Fault Refusal
  | [], s => .next ([], s)
  | t :: ts, s =>
    match transact t s with
    | .next (r, s') =>
      match runTransactions ts s' with
      | .next (rs, s'') => .next (r :: rs, s'')
      | .fault e => .fault e
      | .refused e => .refused e
    | .fault e => .fault e
    | .refused e => .refused e

/-- The numeric code of the condition a `Step` reports, 0 for none (R125, the spec's D10; log entry
25). -/
def StepOutcome.code : StepOutcome → Nat
  | .ok => 0
  | .unimplemented _ => 1
  | .fatal c _ _ => c.code
  | .halted c => c.code

/-- The numeric code of the condition a transaction reports, 0 for none (R125; log entry 25). -/
def Response.code : Response → Nat
  | .capacityError _ => 5
  | .stepped o => o.code
  | _ => 0

end Sys2Proof.Machine
end

