-- ==== Sys2Proof/Safety.lean ====
section
/-! DEFINITION. The terms claims are written in: what a safe step is, which states a host can reach,
and what a transition keeps (the frame). -/

namespace Sys2Proof.Machine

/-- A `Step` that ran an instruction and raised nothing: it returned `Ok` (`40_fetch_dispatch.md`,
section 2). "A claim about a program should take 'no fatal condition' as a premise"
(`60_exceptions.md` R132), and no `Unimplemented` (`93_implementation_defined.md` U2). -/
def SafeStep (s t : State) : Prop := step s = .next t ∧ t.outcome = .ok

/-- The states a host can bring an instance to: after `Reset`, by any transactions in any order
(`60_exceptions.md` R158). -/
inductive Reachable : State → Prop
  | reset (c : Config) (k : Nat) : Reachable (State.resetWith c k)
  | transact {s t : State} {r : Response} (x : Transaction) :
      Reachable s → Machine.transact x s = .next (r, t) → Reachable t

/-! ## Frames -/

/-- Every byte of memory reads as before. -/
def KeepsMemory (s t : State) : Prop := ∀ a, t.memRead a = s.memRead a

/-- Every byte of memory outside the `len` addresses from `base` reads as before. -/
def KeepsMemoryOutside (base len : Nat) (s t : State) : Prop :=
  ∀ a, ¬ (base ≤ a ∧ a < base + len) → t.memRead a = s.memRead a

/-- Every general register but `x` is as before. -/
def KeepsRegsBut (x : Reg) (s t : State) : Prop := ∀ r, r ≠ x → t.reg r = s.reg r

/-- Every general register but `x` and VF is as before. -/
def KeepsRegsButFlag (x : Reg) (s t : State) : Prop := ∀ r, r ≠ x → r ≠ VF → t.reg r = s.reg r

/-- Every general register is as before. -/
def KeepsRegs (s t : State) : Prop := ∀ r, t.reg r = s.reg r

/-- The call stack is as before. -/
def KeepsStack (s t : State) : Prop := t.sp = s.sp ∧ t.stack = s.stack

/-- Every cell of the display is as before. -/
def KeepsDisplay (s t : State) : Prop := ∀ x y, Screen.cell t.fb x y = Screen.cell s.fb x y

/-- Both timers are as before. -/
def KeepsTimers (s t : State) : Prop := t.dt = s.dt ∧ t.st = s.st

/-- The fault latch and the report of the `Step` are as before. -/
def KeepsFault (s t : State) : Prop := t.fault = s.fault ∧ t.outcome = s.outcome

/-- What no instruction writes: the key latches and the configuration. -/
def KeepsHost (s t : State) : Prop := t.key = s.key ∧ t.config = s.config

/-- No random byte is consumed. -/
def KeepsRandom (s t : State) : Prop := t.draws = s.draws

/-- Everything but the general registers is as before: the frame of the arithmetic instructions, which
"leave `PC = a + 2`" (`42_load_alu.md`). -/
structure OnlyRegsChange (s t : State) : Prop where
  i : t.i = s.i
  pc : t.pc = s.pc
  stack : KeepsStack s t
  memory : KeepsMemory s t
  display : KeepsDisplay s t
  timers : KeepsTimers s t
  fault : KeepsFault s t
  host : KeepsHost s t
  random : KeepsRandom s t

/-- Everything but the index register is as before. -/
structure OnlyIndexChanges (s t : State) : Prop where
  regs : KeepsRegs s t
  pc : t.pc = s.pc
  stack : KeepsStack s t
  memory : KeepsMemory s t
  display : KeepsDisplay s t
  timers : KeepsTimers s t
  fault : KeepsFault s t
  host : KeepsHost s t
  random : KeepsRandom s t

/-- Everything but the general registers and the index register is as before. -/
structure OnlyRegsAndIndexChange (s t : State) : Prop where
  pc : t.pc = s.pc
  stack : KeepsStack s t
  memory : KeepsMemory s t
  display : KeepsDisplay s t
  timers : KeepsTimers s t
  fault : KeepsFault s t
  host : KeepsHost s t
  random : KeepsRandom s t

/-- Everything but the program counter and the call stack is as before. -/
structure OnlyControlChanges (s t : State) : Prop where
  regs : KeepsRegs s t
  i : t.i = s.i
  memory : KeepsMemory s t
  display : KeepsDisplay s t
  timers : KeepsTimers s t
  fault : KeepsFault s t
  host : KeepsHost s t
  random : KeepsRandom s t

/-- Everything but the program counter is as before. -/
structure OnlyPcChanges (s t : State) : Prop extends OnlyControlChanges s t where
  stack : KeepsStack s t

/-- Everything but the timers is as before. -/
structure OnlyTimersChange (s t : State) : Prop where
  regs : KeepsRegs s t
  i : t.i = s.i
  pc : t.pc = s.pc
  stack : KeepsStack s t
  memory : KeepsMemory s t
  display : KeepsDisplay s t
  fault : KeepsFault s t
  host : KeepsHost s t
  random : KeepsRandom s t

/-- Everything but memory and the index register is as before. -/
structure OnlyMemoryAndIndexChange (s t : State) : Prop where
  regs : KeepsRegs s t
  pc : t.pc = s.pc
  stack : KeepsStack s t
  display : KeepsDisplay s t
  timers : KeepsTimers s t
  fault : KeepsFault s t
  host : KeepsHost s t
  random : KeepsRandom s t

/-- Everything but the display and the general registers is as before. -/
structure OnlyDisplayAndRegsChange (s t : State) : Prop where
  i : t.i = s.i
  pc : t.pc = s.pc
  stack : KeepsStack s t
  memory : KeepsMemory s t
  timers : KeepsTimers s t
  fault : KeepsFault s t
  host : KeepsHost s t
  random : KeepsRandom s t

/-- The state after a fatal condition raised by the instruction at `a`: the latch and the report, and
nothing else (`60_exceptions.md` R132, the spec's D11; log entry 11). -/
def AfterFatal (c : Fault) (info : Nat) (a : Word) (s : State) : State :=
  { s with fault := some c, outcome := .fatal c info a }

/-! ## The canonical memory -/

/-- The memory of a state has its canonical form. -/
def MemoryCanonical (s : State) : Prop := s.mem.wf s.config

/-! ## Sprites -/

/-- The sprite of `DXYN` has a 1 bit that falls on column `cx`, row `cy`: row `r` of the sprite is the
byte at `I + r`, its bit `7 - c` is column `c`, and both coordinates wrap (`44_display.md` R111,
R112). -/
def SpriteCovers (s : State) (x y : Reg) (n : Nibble) (cx : Fin 64) (cy : Fin 32) : Prop :=
  ∃ r c : Nat, ∃ b : Byte, r < n.toNat ∧ c < 8 ∧ s.memRead (s.i.toNat + r) = some b ∧
    b.getLsbD (7 - c) = true ∧ cx.val = ((s.reg x).toNat % 64 + c) % 64 ∧
    cy.val = ((s.reg y).toNat % 32 + r) % 32

/-! ## Who may write what (`10_state.md` R26) -/

/-- The rows of the writer matrix. -/
inductive Piece where
  | regs | index | pc | callStack | memory | display | keys | delay | sound | fault
  deriving DecidableEq, Repr

/-- The piece is the same in two states. -/
def Piece.Same (p : Piece) (s t : State) : Prop :=
  match p with
  | .regs => t.v = s.v
  | .index => t.i = s.i
  | .pc => t.pc = s.pc
  | .callStack => t.sp = s.sp ∧ t.stack = s.stack
  | .memory => t.mem = s.mem
  | .display => t.fb = s.fb
  | .keys => t.key = s.key
  | .delay => t.dt = s.dt
  | .sound => t.st = s.st
  | .fault => t.fault = s.fault

/-- The pieces an instruction may write, the column `Step` of the writer matrix with the lists of R10
and R11; the fetch's write of `PC` is not repeated here. `inc` is `INDEX_INC`. -/
def stepWrites (inc : Bool) : Instr → List Piece
  | .cls => [.display]
  | .ret => [.pc, .callStack, .fault]
  | .jp _ => [.pc]
  | .call _ => [.pc, .callStack, .fault]
  | .seImm _ _ => [.pc]
  | .sneImm _ _ => [.pc]
  | .seReg _ _ => [.pc]
  | .ldImm _ _ => [.regs]
  | .addImm _ _ => [.regs]
  | .ldReg _ _ => [.regs]
  | .orReg _ _ => [.regs]
  | .andReg _ _ => [.regs]
  | .xorReg _ _ => [.regs]
  | .addReg _ _ => [.regs]
  | .sub _ _ => [.regs]
  | .shr _ _ => [.regs]
  | .subn _ _ => [.regs]
  | .shl _ _ => [.regs]
  | .sneReg _ _ => [.pc]
  | .ldI _ => [.index]
  | .jpV0 _ => [.pc]
  | .rnd _ _ => [.regs]
  | .drw _ _ _ => [.display, .regs, .fault]
  | .skp _ => [.pc, .fault]
  | .sknp _ => [.pc, .fault]
  | .ldVxDt _ => [.regs]
  | .ldVxK _ => [.regs, .pc]
  | .ldDtVx _ => [.delay]
  | .ldStVx _ => [.sound]
  | .addI _ => [.index]
  | .ldF _ => [.index]
  | .ldB _ => [.memory, .fault]
  | .stRegs _ => if inc then [.memory, .index, .fault] else [.memory, .fault]
  | .ldRegs _ => if inc then [.regs, .index, .fault] else [.regs, .fault]

/-- The next `Step` runs the instruction `i`. -/
def RunsNext (s : State) (i : Instr) : Prop :=
  s.fault = none ∧ ∃ w, s.fetch = some w ∧ decode w = .ok i

/-- The writer matrix: which transaction may write which piece, in the state it is issued in
(`10_state.md` R26). -/
def MayWrite (x : Transaction) (s : State) (p : Piece) : Prop :=
  match x with
  | .reset => True
  | .load _ => p = .memory
  | .step => (p = .pc ∧ s.fault = none) ∨ (p = .fault ∧ s.fault = none ∧ s.fetch = none) ∨
      ∃ i, RunsNext s i ∧ p ∈ stepWrites s.config.indexInc i
  | .tickTimers => p = .delay ∨ p = .sound
  | .setKey _ _ => p = .keys
  | .readDisplay => False
  | .readSoundActive => False

/-- In this run from `s`, no `Step` runs an instruction of the kind `bad`. -/
def NeverRuns (bad : Instr → Prop) : List Transaction → State → Prop
  | [], _ => True
  | x :: xs, s => (x = .step → ∀ i, RunsNext s i → ¬ bad i) ∧
      ∀ r t, transact x s = .next (r, t) → NeverRuns bad xs t

/-! ## The range of PC and of return addresses -/

/-- `PC` and the return addresses as far as a program can take them: `BNNN` sets `PC` to at most
0x10FE (`41_control_flow.md` R82) and a call pushes at most 4096 (R77). -/
structure PcBounded (s : State) : Prop where
  pc : s.pc.toNat ≤ 0x10FE
  stack : ∀ j (h : j < 16), s.stack[j].toNat ≤ 4096

end Sys2Proof.Machine
end

