-- ==== Sys2Proof/Certificates/Slice0/Obligations.lean ====
section
/-! DEFINITION. The statements for the provers. In a statement about `exec` the state `s` is the one
after the advance, so the instruction's address is the `a` with `PC = a + 2` (`40_fetch_dispatch.md`
R68). A statement whose text rests on a decision of the spec (`92_eei_decisions.md`) names it. -/

open Sys2Proof Sys2Proof.Machine

/-! ## Encoding -/

/-- A few words written out bit by bit from the opcode table decode to their instructions. The minor
opcode of `8XY5` is the spec's decision D33 (log entry 18). -/
def Obligations.TableWordsDecode : Prop :=
  decode 0b0000000011100000#16 = .ok .cls ∧
  decode 0b0010001100000000#16 = .ok (.call 0x300) ∧
  decode 0b0110101001111111#16 = .ok (.ldImm 0xA 0x7F) ∧
  decode 0b1000001000110101#16 = .ok (.sub 0x2 0x3) ∧
  decode 0b1101000000010010#16 = .ok (.drw 0x0 0x1 0x2) ∧
  decode 0b1110000110011110#16 = .ok (.skp 0x1) ∧
  decode 0b1111001101010101#16 = .ok (.stRegs 0x3) ∧
  decode 0b0101000100100001#16 = .error (.unimplementedOpcode 0x5121)

/-- Decoding the word, or the bytes, of any instruction gives the instruction back. -/
def Obligations.DecodeOfEncodeIsTheInstruction : Prop :=
  ∀ (i : Instr) (rest : List Byte),
    decode (encode i) = .ok i ∧ decodeBytes (encodeBytes i ++ rest) = .ok (i, rest)

/-- A word that decodes is the word of the instruction it decodes to: no bit is ignored. -/
def Obligations.EncodeOfDecodeIsTheWord : Prop :=
  ∀ (w : Word) (i : Instr), decode w = .ok i → encode i = w

/-- R53: every word either matches exactly one row of the opcode table, which is the row of the
instruction it decodes to, or matches none and is an unmatched word; and the words that match are those
the rule lists by nibbles. -/
def Obligations.EveryWordMatchesOneRowOrNone : Prop :=
  ∀ w : Word,
    ((∃ i r, decode w = .ok i ∧ r.mnemonic = i.mnemonic ∧
        opcodeTable.filter (fun q => q.selects w) = [r]) ∨
      (decode w = .error (.unimplementedOpcode w) ∧
        opcodeTable.filter (fun q => q.selects w) = [])) ∧
    ((∃ i, decode w = .ok i) ↔
      fieldN1 w ∈ [0x1, 0x2, 0x3, 0x4, 0x6, 0x7, 0xA, 0xB, 0xC, 0xD] ∨
      (fieldN1 w = 0x0 ∧ (w = 0x00E0 ∨ w = 0x00EE)) ∨
      ((fieldN1 w = 0x5 ∨ fieldN1 w = 0x9) ∧ fieldN w = 0x0) ∨
      (fieldN1 w = 0x8 ∧ fieldN w ∈ [0x0, 0x1, 0x2, 0x3, 0x4, 0x5, 0x6, 0x7, 0xE]) ∨
      (fieldN1 w = 0xE ∧ fieldNN w ∈ [0x9E, 0xA1]) ∨
      (fieldN1 w = 0xF ∧ fieldNN w ∈ [0x07, 0x0A, 0x15, 0x18, 0x1E, 0x29, 0x33, 0x55, 0x65]))

/-! ## The frame of a Step -/

/-- A halted machine: the `Step` returns `Halted(FAULT)` and changes nothing. The latch is the spec's
own decision (D9; log entry 11). -/
def Obligations.HaltedStepChangesNothing : Prop :=
  ∀ (s : State) (c : Fault), s.fault = some c →
    step s = .next { s with outcome := .halted c }

/-- A fetch at `PC >= 4095` latches `AddressError` with the first offending address and changes nothing
else; `PC` is not advanced. The end state is the spec's own decision (D12; log entry 11). -/
def Obligations.FetchOutsideMemoryFaults : Prop :=
  ∀ s : State, s.fault = none → s.pc.toNat ≥ 4095 →
    step s = .next (AfterFatal .addressError
      (if s.pc.toNat = 4095 then 4096 else s.pc.toNat) s.pc s)

/-- R34: the fetched word is `MEM[PC] * 256 + MEM[PC+1]`; its first byte holds nibbles N1 N2 and the
second N3 N4. -/
def Obligations.FetchIsBigEndian : Prop :=
  ∀ (s : State) (hi lo : Byte), s.memRead s.pc.toNat = some hi →
    s.memRead (s.pc.toNat + 1) = some lo →
    ∃ w, s.fetch = some w ∧ w.toNat = hi.toNat * 256 + lo.toNat ∧
      (fieldN1 w).toNat = hi.toNat / 16 ∧ (fieldX w).toNat = hi.toNat % 16 ∧
      (fieldY w).toNat = lo.toNat / 16 ∧ (fieldN w).toNat = lo.toNat % 16

/-- A `Step` of a machine that is not halted and whose `PC` lies inside memory (an odd `PC` is fetched
from like an even one, the spec's D13) runs the instruction its two bytes decode to, in the state
with `PC` advanced by 2 and the report `Ok` pending. -/
def Obligations.StepRunsDecodedInstruction : Prop :=
  ∀ (s : State) (hi lo : Byte) (i : Instr), s.fault = none →
    s.memRead s.pc.toNat = some hi → s.memRead (s.pc.toNat + 1) = some lo →
    decode (wordOfBytes hi lo) = .ok i →
    step s = exec i { s with pc := s.pc + 2, outcome := .ok } ∧
      (s.pc + 2).toNat = s.pc.toNat + 2

/-- R70, R130: an unmatched word is reported, `PC` is advanced by 2, and nothing else changes; `FAULT`
is not set. -/
def Obligations.UnmatchedWordAdvancesAndReports : Prop :=
  ∀ (s : State) (hi lo : Byte) (w : Word), s.fault = none →
    s.memRead s.pc.toNat = some hi → s.memRead (s.pc.toNat + 1) = some lo →
    w.toNat = hi.toNat * 256 + lo.toNat →
    (opcodeTable.all fun r => !r.selects w) = true →
    ∃ t, step s = .next t ∧ t = { s with pc := s.pc + 2, outcome := .unimplemented w } ∧
      t.pc.toNat = s.pc.toNat + 2 ∧ t.fault = none

/-- `step` and `exec` answer a next state from every state, whatever the instruction. The next state may
be one with a fatal condition latched and none of the instruction's own effect (a call with `SP = 16`);
that a fatal condition is a next state and never a fault of the host's interface is the model's
reading (DEDUCED: log entry 1) of the spec's own decisions D9, D11 and D12. -/
def Obligations.StepAlwaysAnswersNext : Prop :=
  (∀ s : State, ∃ t, step s = .next t) ∧ ∀ (i : Instr) (s : State), ∃ t, exec i s = .next t

/-! ## Control flow -/

/-- R76: `1NNN` sets `PC` to `NNN`, zero-extended, and changes nothing else. -/
def Obligations.JumpSetsPc : Prop :=
  ∀ (nnn : Addr12) (s : State), decode (0x1#4 ++ nnn) = .ok (.jp nnn) ∧
    ∃ t, exec (.jp nnn) s = .next t ∧ t.pc.toNat = nnn.toNat ∧ OnlyPcChanges s t

/-- `2NNN`: with `SP < 16` it pushes `PC`, the address of the next word, and jumps; with `SP = 16` it
raises `StackOverflow(a)`, pushes nothing and does not jump. The end state of the raise is the spec's
own decision (D9, D11). -/
def Obligations.CallPushesReturnAddress : Prop :=
  ∀ (nnn : Addr12) (s : State), decode (0x2#4 ++ nnn) = .ok (.call nnn) ∧
    (s.sp.val < 16 → ∃ t, exec (.call nnn) s = .next t ∧ t.pc.toNat = nnn.toNat ∧
      t.sp.val = s.sp.val + 1 ∧ t.stack[s.sp.val]? = some s.pc ∧
      (∀ j, j ≠ s.sp.val → t.stack[j]? = s.stack[j]?) ∧ OnlyControlChanges s t) ∧
    (s.sp.val = 16 → ∀ a : Word, s.pc = a + 2 →
      exec (.call nnn) s = .next (AfterFatal .stackOverflow a.toNat a s))

/-- `00EE`: with `SP > 0` it pops the latest return address into `PC`, as it is, and the slot keeps its
value; with `SP = 0` it raises `StackUnderflow(a)` and changes nothing else. The end state of the
raise is the spec's own decision (D9, D11). -/
def Obligations.ReturnPopsReturnAddress : Prop :=
  ∀ s : State, decode 0x00EE#16 = .ok .ret ∧
    (s.sp.val > 0 → ∃ t, exec .ret s = .next t ∧ t.sp.val + 1 = s.sp.val ∧
      s.stack[t.sp.val]? = some t.pc ∧ t.stack = s.stack ∧ OnlyControlChanges s t) ∧
    (s.sp.val = 0 → ∀ a : Word, s.pc = a + 2 →
      exec .ret s = .next (AfterFatal .stackUnderflow a.toNat a s))

/-- R78, R79: `3XNN` skips the next word if `V[X] = NN`, `4XNN` if `V[X] != NN`; nothing but `PC`
changes. -/
def Obligations.SkipsComparingWithImmediate : Prop :=
  ∀ (x : Reg) (nn : Byte) (s : State),
    decode (0x3#4 ++ x ++ nn) = .ok (.seImm x nn) ∧
    decode (0x4#4 ++ x ++ nn) = .ok (.sneImm x nn) ∧
    (∃ t, exec (.seImm x nn) s = .next t ∧ OnlyPcChanges s t ∧ t.pc.toNat =
      if (s.reg x).toNat = nn.toNat then (s.pc.toNat + 2) % 65536 else s.pc.toNat) ∧
    (∃ t, exec (.sneImm x nn) s = .next t ∧ OnlyPcChanges s t ∧ t.pc.toNat =
      if (s.reg x).toNat ≠ nn.toNat then (s.pc.toNat + 2) % 65536 else s.pc.toNat)

/-- R80, R81: `5XY0` skips the next word if `V[X] = V[Y]`, `9XY0` if they differ; `5XYN` and `9XYN` with
`N != 0` are unmatched; nothing but `PC` changes. -/
def Obligations.SkipsComparingRegisters : Prop :=
  ∀ (x y : Reg) (n : Nibble) (s : State),
    decode (0x5#4 ++ x ++ y ++ 0x0#4) = .ok (.seReg x y) ∧
    decode (0x9#4 ++ x ++ y ++ 0x0#4) = .ok (.sneReg x y) ∧
    (n ≠ 0 → decode (0x5#4 ++ x ++ y ++ n) = .error (.unimplementedOpcode (0x5#4 ++ x ++ y ++ n)) ∧
      decode (0x9#4 ++ x ++ y ++ n) = .error (.unimplementedOpcode (0x9#4 ++ x ++ y ++ n))) ∧
    (∃ t, exec (.seReg x y) s = .next t ∧ OnlyPcChanges s t ∧ t.pc.toNat =
      if (s.reg x).toNat = (s.reg y).toNat then (s.pc.toNat + 2) % 65536 else s.pc.toNat) ∧
    (∃ t, exec (.sneReg x y) s = .next t ∧ OnlyPcChanges s t ∧ t.pc.toNat =
      if (s.reg x).toNat ≠ (s.reg y).toNat then (s.pc.toNat + 2) % 65536 else s.pc.toNat)

/-- `BNNN`: `PC` becomes `V[0] + NNN`, not reduced modulo 4096 (the spec's D14). -/
def Obligations.IndexedJumpAddsV0 : Prop :=
  ∀ (nnn : Addr12) (s : State), decode (0xB#4 ++ nnn) = .ok (.jpV0 nnn) ∧
    ∃ t, exec (.jpV0 nnn) s = .next t ∧ t.pc.toNat = (s.reg 0).toNat + nnn.toNat ∧
      OnlyPcChanges s t

/-- A call with room on the stack, and a later return with the stack as the call left it: `PC` is the
word after the call, `SP` and every live slot are as before the call. -/
def Obligations.ReturnAfterCallResumes : Prop :=
  ∀ (nnn : Addr12) (s t u : State), s.sp.val < 16 → exec (.call nnn) s = .next t →
    u.sp = t.sp → u.stack = t.stack →
    ∃ w, exec .ret u = .next w ∧ w.pc = s.pc ∧ w.sp = s.sp ∧
      ∀ j, j < s.sp.val → w.stack[j]? = s.stack[j]?

/-! ## Load, arithmetic, logic, shift, random -/

/-- R87, R88, R89: `6XNN` loads the immediate, `7XNN` adds it modulo 256 with no flag, `8XY0` copies a
register; no other register (VF among them, unless `X` names it) and nothing else changes. -/
def Obligations.LoadsAndImmediateAdd : Prop :=
  ∀ (x y : Reg) (nn : Byte) (s : State),
    decode (0x6#4 ++ x ++ nn) = .ok (.ldImm x nn) ∧
    decode (0x7#4 ++ x ++ nn) = .ok (.addImm x nn) ∧
    decode (0x8#4 ++ x ++ y ++ 0x0#4) = .ok (.ldReg x y) ∧
    (∃ t, exec (.ldImm x nn) s = .next t ∧ t.reg x = nn ∧ KeepsRegsBut x s t ∧
      OnlyRegsChange s t) ∧
    (∃ t, exec (.addImm x nn) s = .next t ∧
      (t.reg x).toNat = ((s.reg x).toNat + nn.toNat) % 256 ∧ KeepsRegsBut x s t ∧
      OnlyRegsChange s t) ∧
    (∃ t, exec (.ldReg x y) s = .next t ∧ t.reg x = s.reg y ∧ KeepsRegsBut x s t ∧
      OnlyRegsChange s t)

/-- `8XY1`, `8XY2`, `8XY3`: OR, AND, XOR bit by bit; VF is not written unless `X` names it (the spec's
D18; log entry 14). -/
def Obligations.LogicInstructionsAreBitwise : Prop :=
  ∀ (x y : Reg) (s : State),
    (∃ t, exec (.orReg x y) s = .next t ∧ KeepsRegsBut x s t ∧ OnlyRegsChange s t ∧
      ∀ k, (t.reg x).getLsbD k = ((s.reg x).getLsbD k || (s.reg y).getLsbD k)) ∧
    (∃ t, exec (.andReg x y) s = .next t ∧ KeepsRegsBut x s t ∧ OnlyRegsChange s t ∧
      ∀ k, (t.reg x).getLsbD k = ((s.reg x).getLsbD k && (s.reg y).getLsbD k)) ∧
    (∃ t, exec (.xorReg x y) s = .next t ∧ KeepsRegsBut x s t ∧ OnlyRegsChange s t ∧
      ∀ k, (t.reg x).getLsbD k = ((s.reg x).getLsbD k != (s.reg y).getLsbD k))

/-- `8XY4`: the sum modulo 256, VF = 1 iff the true sum exceeds 255. With `X = 0xF` the flag is what
remains, computed from the old values (the spec's D16). -/
def Obligations.AddSetsCarry : Prop :=
  ∀ (x y : Reg) (s : State), ∃ t, exec (.addReg x y) s = .next t ∧
    (x ≠ VF → (t.reg x).toNat = ((s.reg x).toNat + (s.reg y).toNat) % 256) ∧
    (t.reg VF).toNat = (if (s.reg x).toNat + (s.reg y).toNat > 255 then 1 else 0) ∧
    KeepsRegsButFlag x s t ∧ OnlyRegsChange s t

/-- `8XY5` and `8XY7`: the difference modulo 256, VF = 1 iff the minuend is at least the subtrahend.
With `X = 0xF` the flag is what remains (the spec's D16). -/
def Obligations.SubtractionsSetNoBorrow : Prop :=
  ∀ (x y : Reg) (s : State),
    (∃ t, exec (.sub x y) s = .next t ∧
      (x ≠ VF → ((t.reg x).toNat : Int) = ((s.reg x).toNat - (s.reg y).toNat : Int) % 256) ∧
      (t.reg VF).toNat = (if (s.reg x).toNat ≥ (s.reg y).toNat then 1 else 0) ∧
      KeepsRegsButFlag x s t ∧ OnlyRegsChange s t) ∧
    (∃ t, exec (.subn x y) s = .next t ∧
      (x ≠ VF → ((t.reg x).toNat : Int) = ((s.reg y).toNat - (s.reg x).toNat : Int) % 256) ∧
      (t.reg VF).toNat = (if (s.reg y).toNat ≥ (s.reg x).toNat then 1 else 0) ∧
      KeepsRegsButFlag x s t ∧ OnlyRegsChange s t)

/-- `8XY6` and `8XYE`: one bit right or left of the source, VF is the bit shifted out. The source is
`V[Y]` where `SHIFT_SRC_VY` is true, else `V[X]` (the spec's D19); with `X = 0xF` the flag is what
remains (D16). -/
def Obligations.ShiftsMoveOneBit : Prop :=
  ∀ (x y : Reg) (s : State) (src : Nat),
    src = (if s.config.shiftSrcVY then (s.reg y).toNat else (s.reg x).toNat) →
    (∃ t, exec (.shr x y) s = .next t ∧ (x ≠ VF → (t.reg x).toNat = src / 2) ∧
      (t.reg VF).toNat = src % 2 ∧ KeepsRegsButFlag x s t ∧ OnlyRegsChange s t) ∧
    (∃ t, exec (.shl x y) s = .next t ∧ (x ≠ VF → (t.reg x).toNat = src * 2 % 256) ∧
      (t.reg VF).toNat = src / 128 ∧ KeepsRegsButFlag x s t ∧ OnlyRegsChange s t)

/-- `CXNN`: the byte drawn, whatever it is, masked with `NN`; one byte is consumed, even for `NN = 0`
(the spec's D25). The byte is a free value, so this holds for every source of bytes. -/
def Obligations.RandomIsMaskedDraw : Prop :=
  ∀ (x : Reg) (nn : Byte) (s : State), ∃ t, exec (.rnd x nn) s = .next t ∧
    (∀ k, (t.reg x).getLsbD k = ((Config.randomByte s.draws).getLsbD k && nn.getLsbD k)) ∧
    t.draws = s.draws + 1 ∧ KeepsRegsBut x s t ∧ OnlyRegsChange s { t with draws := s.draws }

/-! ## Index register and memory -/

/-- R100: `ANNN` sets `I` to `NNN`, its top four bits 0, and changes nothing else. -/
def Obligations.LoadIndexSetsI : Prop :=
  ∀ (nnn : Addr12) (s : State), decode (0xA#4 ++ nnn) = .ok (.ldI nnn) ∧
    ∃ t, exec (.ldI nnn) s = .next t ∧ t.i.toNat = nnn.toNat ∧ OnlyIndexChanges s t

/-- `FX1E` adds `V[X]` to `I` modulo 65536, VF not written (the spec's D24); `FX29` sets `I` to
`V[X] * 5`, `V[X]` not masked (D23). -/
def Obligations.IndexArithmetic : Prop :=
  ∀ (x : Reg) (s : State),
    (∃ t, exec (.addI x) s = .next t ∧ t.i.toNat = (s.i.toNat + (s.reg x).toNat) % 65536 ∧
      OnlyIndexChanges s t) ∧
    (∃ t, exec (.ldF x) s = .next t ∧ t.i.toNat = (s.reg x).toNat * 5 ∧ OnlyIndexChanges s t)

/-- R103: `FX33` stores the hundreds, tens and ones digits of `V[X]` at `I`, `I+1`, `I+2` and nothing
else; where `I + 2 > 4095` it raises `AddressError(max(I, 4096))` and writes nothing. The latching of
the raised condition is stated in `RunOutsideMemoryFaults`. -/
def Obligations.StoreDecimalDigits : Prop :=
  ∀ (x : Reg) (s : State), MemoryCanonical s →
    decode (0xF#4 ++ x ++ 0x33#8) = .ok (.ldB x) ∧
    (s.i.toNat + 2 ≤ 4095 → ∃ t, ∃ h d o : Byte, exec (.ldB x) s = .next t ∧
      t.memRead s.i.toNat = some h ∧ t.memRead (s.i.toNat + 1) = some d ∧
      t.memRead (s.i.toNat + 2) = some o ∧
      h.toNat = (s.reg x).toNat / 100 ∧ d.toNat = (s.reg x).toNat / 10 % 10 ∧
      o.toNat = (s.reg x).toNat % 10 ∧
      KeepsMemoryOutside s.i.toNat 3 s t ∧ t.i = s.i ∧ OnlyMemoryAndIndexChange s t) ∧
    (s.i.toNat + 2 > 4095 → ∀ a : Word, s.pc = a + 2 → ∃ t, exec (.ldB x) s = .next t ∧
      t.outcome = .fatal .addressError (max s.i.toNat 4096) a ∧ KeepsMemory s t)

/-- R104: `FX55` stores `V[0]..V[X]`, `X + 1` registers, at `I`, `I+1`, ..., and `I` advances by `X + 1`
only where `INDEX_INC` is true; where `I + X > 4095` it raises `AddressError(max(I, 4096))`, writes
nothing and leaves `I`. The latching of the raised condition is stated in
`RunOutsideMemoryFaults`. -/
def Obligations.StoreRegistersInclusive : Prop :=
  ∀ (x : Reg) (s : State), MemoryCanonical s →
    decode (0xF#4 ++ x ++ 0x55#8) = .ok (.stRegs x) ∧
    (s.i.toNat + x.toNat ≤ 4095 → ∃ t, exec (.stRegs x) s = .next t ∧
      (∀ r : Reg, r.toNat ≤ x.toNat → t.memRead (s.i.toNat + r.toNat) = some (s.reg r)) ∧
      KeepsMemoryOutside s.i.toNat (x.toNat + 1) s t ∧
      t.i.toNat = (if s.config.indexInc then s.i.toNat + x.toNat + 1 else s.i.toNat) ∧
      OnlyMemoryAndIndexChange s t) ∧
    (s.i.toNat + x.toNat > 4095 → ∀ a : Word, s.pc = a + 2 → ∃ t, exec (.stRegs x) s = .next t ∧
      t.outcome = .fatal .addressError (max s.i.toNat 4096) a ∧ KeepsMemory s t ∧ t.i = s.i)

/-- R105: `FX65` loads `V[0]..V[X]` from `I`, `I+1`, ...; registers above `X` are not changed, and `I`
advances by `X + 1` only where `INDEX_INC` is true; where `I + X > 4095` it raises
`AddressError(max(I, 4096))`, writes no register and leaves `I`. The latching of the raised condition
is stated in `RunOutsideMemoryFaults`. -/
def Obligations.LoadRegistersInclusive : Prop :=
  ∀ (x : Reg) (s : State),
    decode (0xF#4 ++ x ++ 0x65#8) = .ok (.ldRegs x) ∧
    (s.i.toNat + x.toNat ≤ 4095 → ∃ t, exec (.ldRegs x) s = .next t ∧
      (∀ r : Reg, r.toNat ≤ x.toNat → some (t.reg r) = s.memRead (s.i.toNat + r.toNat)) ∧
      (∀ r : Reg, r.toNat > x.toNat → t.reg r = s.reg r) ∧
      t.i.toNat = (if s.config.indexInc then s.i.toNat + x.toNat + 1 else s.i.toNat) ∧
      OnlyRegsAndIndexChange s t) ∧
    (s.i.toNat + x.toNat > 4095 → ∀ a : Word, s.pc = a + 2 → ∃ t, exec (.ldRegs x) s = .next t ∧
      t.outcome = .fatal .addressError (max s.i.toNat 4096) a ∧ KeepsRegs s t ∧ t.i = s.i)

/-- The run of addresses of `DXYN` (with `N > 0`), `FX33`, `FX55`, `FX65` is checked before the first
access: with its last address above 4095 the instruction latches `AddressError`, reports the lowest
address out of range, and writes nothing: no memory, no register, not `I`, not VF, not the display.
That a faulting instruction has no partial effect is the spec's own decision (D11). -/
def Obligations.RunOutsideMemoryFaults : Prop :=
  ∀ (x y : Reg) (n : Nibble) (s : State) (a : Word), s.pc = a + 2 →
    (n.toNat > 0 → s.i.toNat + n.toNat - 1 > 4095 →
      exec (.drw x y n) s = .next (AfterFatal .addressError (max s.i.toNat 4096) a s)) ∧
    (s.i.toNat + 2 > 4095 →
      exec (.ldB x) s = .next (AfterFatal .addressError (max s.i.toNat 4096) a s)) ∧
    (s.i.toNat + x.toNat > 4095 →
      exec (.stRegs x) s = .next (AfterFatal .addressError (max s.i.toNat 4096) a s) ∧
      exec (.ldRegs x) s = .next (AfterFatal .addressError (max s.i.toNat 4096) a s))

/-- Storing `V[0]..V[X]` and loading them back from the same `I`, whatever the registers hold in
between, restores `V[0]..V[X]`. -/
def Obligations.LoadAfterStoreRestoresRegisters : Prop :=
  ∀ (x : Reg) (s t u : State), MemoryCanonical s → s.i.toNat + x.toNat ≤ 4095 →
    exec (.stRegs x) s = .next t → u.mem = t.mem → u.config = t.config → u.i = s.i →
    ∃ w, exec (.ldRegs x) u = .next w ∧ (∀ r : Reg, r.toNat ≤ x.toNat → w.reg r = s.reg r) ∧
      ∀ r : Reg, r.toNat > x.toNat → w.reg r = u.reg r

/-- A byte stored by `FX55` is the byte the next fetch sees: storing at `PC` replaces the next
instruction word by `V[0] * 256 + V[1]`, with no action by the program. -/
def Obligations.NextFetchSeesStore : Prop :=
  ∀ (x : Reg) (s : State), MemoryCanonical s → x.toNat ≥ 1 → s.i = s.pc →
    s.i.toNat + x.toNat ≤ 4095 →
    ∃ t w, exec (.stRegs x) s = .next t ∧ t.fetch = some w ∧
      w.toNat = (s.reg 0).toNat * 256 + (s.reg 1).toNat

/-! ## Display -/

/-- R110: `00E0` sets every cell to 0 and changes nothing else, VF included. -/
def Obligations.ClearBlanksDisplay : Prop :=
  ∀ s : State, decode 0x00E0#16 = .ok .cls ∧
    ∃ t, exec .cls s = .next t ∧ (∀ x y, Screen.cell t.fb x y = false) ∧ KeepsRegs s t ∧
      OnlyDisplayAndRegsChange s t

/-- `DXYN` whose sprite lies inside memory (or has no rows): a cell is inverted iff the sprite covers it,
and VF is 1 iff some covered cell was set. Bit 7 is the leftmost pixel (the spec's D21), both
coordinates wrap and `N = 0` draws nothing (D22). -/
def Obligations.DrawXorsSprite : Prop :=
  ∀ (x y : Reg) (n : Nibble) (s : State), n.toNat = 0 ∨ s.i.toNat + n.toNat - 1 ≤ 4095 →
    ∃ t, exec (.drw x y n) s = .next t ∧
      (∀ cx cy, Screen.cell t.fb cx cy = true ↔
        (Screen.cell s.fb cx cy = true ∧ ¬ SpriteCovers s x y n cx cy) ∨
        (Screen.cell s.fb cx cy = false ∧ SpriteCovers s x y n cx cy)) ∧
      ((t.reg VF = 1 ∧ ∃ cx cy, Screen.cell s.fb cx cy = true ∧ SpriteCovers s x y n cx cy) ∨
       (t.reg VF = 0 ∧ ∀ cx cy, Screen.cell s.fb cx cy = true → ¬ SpriteCovers s x y n cx cy)) ∧
      KeepsRegsBut VF s t ∧ OnlyDisplayAndRegsChange s t

/-- Drawing the same sprite at the same place twice restores the display, from any display; the second
VF is 1 iff the sprite covers a cell that was 0 before the first draw, which the first draw set.
(`X = 0xF` or `Y = 0xF` is the same place only if the first VF gives the same coordinate.) Which cells
a sprite covers rests on the spec's decisions D21 and D22 (log entries 16 and 17). -/
def Obligations.DrawTwiceRestoresDisplay : Prop :=
  ∀ (x y : Reg) (n : Nibble) (s t : State), n.toNat = 0 ∨ s.i.toNat + n.toNat - 1 ≤ 4095 →
    exec (.drw x y n) s = .next t →
    (t.reg x).toNat % 64 = (s.reg x).toNat % 64 → (t.reg y).toNat % 32 = (s.reg y).toNat % 32 →
    ∃ u, exec (.drw x y n) t = .next u ∧ u.fb = s.fb ∧
      (u.reg VF = 1 ↔ ∃ cx cy, Screen.cell s.fb cx cy = false ∧ SpriteCovers s x y n cx cy)

/-! ## Keys and timers -/

/-- `EX9E` and `EXA1`: with `V[X] <= 15` they skip the next word if key `V[X]` is pressed, or not
pressed; with `V[X] > 15` they latch `AddressError(V[X])` (the spec's own decision D15; log entry 12). -/
def Obligations.SkipsOnKey : Prop :=
  ∀ (x : Reg) (s : State),
    (∀ p : Bool, s.key[(s.reg x).toNat]? = some p →
      (∃ t, exec (.skp x) s = .next t ∧ OnlyPcChanges s t ∧
        t.pc.toNat = if p then (s.pc.toNat + 2) % 65536 else s.pc.toNat) ∧
      (∃ t, exec (.sknp x) s = .next t ∧ OnlyPcChanges s t ∧
        t.pc.toNat = if p then s.pc.toNat else (s.pc.toNat + 2) % 65536)) ∧
    ((s.reg x).toNat > 15 → ∀ a : Word, s.pc = a + 2 →
      exec (.skp x) s = .next (AfterFatal .addressError (s.reg x).toNat a s) ∧
      exec (.sknp x) s = .next (AfterFatal .addressError (s.reg x).toNat a s))

/-- `FX0A`: with no key pressed `PC` goes back to the instruction and nothing else changes; else `V[X]`
is the lowest-indexed pressed key and nothing else changes. It tests levels and does not wait for a
release (the spec's D31). -/
def Obligations.KeyWaitParksOrTakesLowestKey : Prop :=
  ∀ (x : Reg) (s : State),
    ((∀ k (h : k < 16), s.key[k] = false) → ∀ a : Word, s.pc = a + 2 →
      ∃ t, exec (.ldVxK x) s = .next t ∧ t.pc = a ∧ OnlyPcChanges s t) ∧
    (∀ k (h : k < 16), s.key[k] = true → (∀ j (hj : j < k), s.key[j] = false) →
      ∃ t, exec (.ldVxK x) s = .next t ∧ (t.reg x).toNat = k ∧ KeepsRegsBut x s t ∧
        OnlyRegsChange s t)

/-- A machine parked on `FX0A` with no key pressed completes the `Step`, returns `Ok` and changes
nothing, so it stays parked for any number of steps. -/
def Obligations.ParkedStepChangesNothing : Prop :=
  ∀ (x : Reg) (s : State), s.fault = none → s.fetch = some (encode (.ldVxK x)) →
    (∀ k (h : k < 16), s.key[k] = false) → step s = .next { s with outcome := .ok }

/-- R118, R119, R120: `FX07` reads `DT` into `V[X]`, `FX15` writes `DT`, `FX18` writes `ST`; each changes
nothing else. -/
def Obligations.TimerInstructions : Prop :=
  ∀ (x : Reg) (s : State),
    decode (0xF#4 ++ x ++ 0x07#8) = .ok (.ldVxDt x) ∧
    decode (0xF#4 ++ x ++ 0x15#8) = .ok (.ldDtVx x) ∧
    decode (0xF#4 ++ x ++ 0x18#8) = .ok (.ldStVx x) ∧
    (∃ t, exec (.ldVxDt x) s = .next t ∧ t.reg x = s.dt ∧ KeepsRegsBut x s t ∧
      OnlyRegsChange s t) ∧
    (∃ t, exec (.ldDtVx x) s = .next t ∧ t.dt = s.reg x ∧ t.st = s.st ∧ OnlyTimersChange s t) ∧
    (∃ t, exec (.ldStVx x) s = .next t ∧ t.st = s.reg x ∧ t.dt = s.dt ∧ OnlyTimersChange s t)

/-- A jump to itself, the end of a run in the spec's programs: every `Step` returns `Ok` and changes
nothing. -/
def Obligations.SelfJumpChangesNothing : Prop :=
  ∀ (nnn : Addr12) (s : State), s.fault = none → s.pc.toNat = nnn.toNat →
    s.fetch = some (encode (.jp nnn)) → step s = .next { s with outcome := .ok }

/-! ## The host's transactions -/

/-- R143: a tick takes each timer down by 1, clamped at 0 (Nat subtraction), always succeeds and changes
nothing else, halted or not. In a run with no `Reset`, `n` ticks with no `FX15` between take `DT` from
`d` to `max(d - n, 0)`, whatever other transactions stand between them, and likewise `ST` with
`FX18`. -/
def Obligations.TicksCountDownAndClamp : Prop :=
  (∀ s : State, ∃ t, transact .tickTimers s = .next (.done, t) ∧ t.dt.toNat = s.dt.toNat - 1 ∧
    t.st.toNat = s.st.toNat - 1 ∧ t = { s with dt := t.dt, st := t.st }) ∧
  ∀ (xs : List Transaction) (s t : State) (rs : List Response), .reset ∉ xs →
    runTransactions xs s = .next (rs, t) →
    (NeverRuns (fun i => ∃ x, i = .ldDtVx x) xs s →
      t.dt.toNat = s.dt.toNat - xs.count .tickTimers) ∧
    (NeverRuns (fun i => ∃ x, i = .ldStVx x) xs s →
      t.st.toNat = s.st.toNat - xs.count .tickTimers)

/-- R144, R147: `ReadSoundActive` returns whether `ST != 0`, `ReadDisplay` all 2048 cells in row-major
order; neither changes anything. -/
def Obligations.ReadsReportAndChangeNothing : Prop :=
  ∀ s : State, transact .readSoundActive s = .next (.soundActive (decide (s.st.toNat ≠ 0)), s) ∧
    ∃ cells, transact .readDisplay s = .next (.display cells, s) ∧ cells.length = 2048 ∧
      ∀ (x : Fin 64) (y : Fin 32), cells[64 * y.val + x.val]? = some (Screen.cell s.fb x y)

/-- R47: `Load` of more than 3584 bytes raises `CapacityError` and writes nothing; otherwise byte `j`
is written at `0x200 + j` and no other byte and no other state changes. -/
def Obligations.LoadCopiesOrRefuses : Prop :=
  ∀ (bytes : Program) (s : State), MemoryCanonical s →
    (bytes.length > 3584 → transact (.load bytes) s = .next (.capacityError bytes.length, s)) ∧
    (bytes.length ≤ 3584 → ∃ t, transact (.load bytes) s = .next (.loaded, t) ∧
      (∀ j (h : j < bytes.length), t.memRead (0x200 + j) = some bytes[j]) ∧
      KeepsMemoryOutside 0x200 bytes.length s t ∧ t = { s with mem := t.mem })

/-- `SetKey(k, p)` sets latch `k` and changes nothing else (a 4-bit index, the spec's D28). -/
def Obligations.SetKeyWritesOneLatch : Prop :=
  ∀ (k : Nibble) (p : Bool) (s : State), ∃ t, transact (.setKey k p) s = .next (.done, t) ∧
    t.key[k.toNat]? = some p ∧ (∀ j, j ≠ k.toNat → t.key[j]? = s.key[j]?) ∧
    t = { s with key := t.key }

/-- `Reset` from any state. The source's values: `V` all 0, `I = 0`, `PC = 0x0200`, the font at 0x000.
The spec's own decisions: memory 0 elsewhere (D3), `SP` and `STACK` 0 (D7), the display blank (D5), the
timers 0 (D6), the keys released (D8), `FAULT` None (D9). Configuration and random source are not
affected. -/
def Obligations.ResetSetsEveryPiece : Prop :=
  ∀ s : State, ∃ t, transact .reset s = .next (.done, t) ∧
    (∀ r, t.reg r = 0) ∧ t.i = 0 ∧ t.pc = 0x200 ∧
    (∀ a (h : a < 80), t.memRead a = some s.config.font[a]) ∧
    (∀ a, 80 ≤ a → a ≤ 4095 → t.memRead a = some 0) ∧ (∀ a, a > 4095 → t.memRead a = none) ∧
    t.sp.val = 0 ∧ (∀ j (h : j < 16), t.stack[j] = 0) ∧
    (∀ x y, Screen.cell t.fb x y = false) ∧ t.dt = 0 ∧ t.st = 0 ∧
    (∀ k (h : k < 16), t.key[k] = false) ∧ t.fault = none ∧
    t.config = s.config ∧ t.draws = s.draws

/-- `Reset`, then `Load` of a program whose first word is an instruction: the next `Step` runs that
instruction from 0x200 (execution starts at the address where `Load` puts the first byte). -/
def Obligations.LoadedProgramRunsFromEntry : Prop :=
  ∀ (s : State) (i : Instr) (rest : List Byte), (encodeBytes i ++ rest).length ≤ 3584 →
    ∃ u, runTransactions [.reset, .load (encodeBytes i ++ rest)] s = .next ([.done, .loaded], u) ∧
      u.pc = 0x200 ∧ step u = exec i { u with pc := 0x202, outcome := .ok }

/-- Once `FAULT` is latched, no transactions but `Reset` clear it or let an instruction execute: after
any of them, in any number and order, the latch, the registers, `I`, `PC`, the stack and the display
are as they were. That a fatal condition halts the machine is the spec's own decision (D9). -/
def Obligations.FaultSticksUntilReset : Prop :=
  ∀ (xs : List Transaction) (s t : State) (rs : List Response) (c : Fault),
    s.fault = some c → Transaction.reset ∉ xs → runTransactions xs s = .next (rs, t) →
    t.fault = some c ∧ t.v = s.v ∧ t.i = s.i ∧ t.pc = s.pc ∧ t.sp = s.sp ∧ t.stack = s.stack ∧
      t.fb = s.fb ∧ t.config = s.config ∧ t.draws = s.draws

/-! ## Invariants and whole-machine rules -/

/-- The state after `Reset` has the invariants below, for every configuration `c` and every number `k` of
bytes drawn before it, and so has `State.reset`, which is the one of the default configuration (log
entry 4). That `SP` and the slots of the stack are 0 is the spec's own decision D7 and that `FAULT` is
None its decision D9 (log entry 8); the canonical form of memory is the model's own, and what it calls
unlisted rests on decision D3 (log entry 7). `PC = 0x0200` is the source's value. -/
def Obligations.ResetHasInvariants : Prop :=
  (MemoryCanonical State.reset ∧ PcBounded State.reset ∧ State.reset.fault = none) ∧
  ∀ (c : Config) (k : Nat), MemoryCanonical (State.resetWith c k) ∧
    PcBounded (State.resetWith c k) ∧ (State.resetWith c k).fault = none

/-- INVARIANT: every `Step`, from every state whose memory is canonical, keeps it canonical: addresses
rising and inside `0..4095`, no entry equal to what an unlisted address reads as. The form is the model's own
(log entry 7). -/
def Obligations.StepKeepsMemoryCanonical : Prop :=
  ∀ s t : State, MemoryCanonical s → step s = .next t → MemoryCanonical t

/-- INVARIANT: so does every transaction of the host (log entry 7). -/
def Obligations.TransactionsKeepMemoryCanonical : Prop :=
  ∀ (x : Transaction) (s t : State) (r : Response), MemoryCanonical s →
    transact x s = .next (r, t) → MemoryCanonical t

/-- INVARIANT: `PC` stays at most 0x10FE and every return address at most 4096, so that adding 2 to `PC`
never wraps. That `BNNN` is not reduced modulo 4096 is the spec's own decision D14 (log entry 15). -/
def Obligations.StepKeepsPcBounded : Prop :=
  ∀ s t : State, PcBounded s → step s = .next t → PcBounded t

/-- After every `Step` the report and the latch agree: `Ok` and `Unimplemented` leave `FAULT` None, a
`Fatal` latches its condition in a machine that was not halted, a `Halted` repeats the latched
condition. The four outcomes and the latch are the spec's own decisions (D29, D9). -/
def Obligations.OutcomeAgreesWithLatch : Prop :=
  ∀ s t : State, step s = .next t →
    match t.outcome with
    | .ok => s.fault = none ∧ t.fault = none
    | .unimplemented w => s.fault = none ∧ t.fault = none ∧ s.fetch = some w
    | .fatal c _ a => s.fault = none ∧ t.fault = some c ∧ a = s.pc
    | .halted c => s.fault = some c ∧ t.fault = some c

/-- A `Step` that ends in a fatal condition, whichever instruction raised it, has changed nothing but
`FAULT` and, unless the fetch itself faulted, `PC` by 2: no partial effect. The end state is the spec's
own decision (D11, D12). -/
def Obligations.FatalStepHasNoPartialEffect : Prop :=
  ∀ (s t : State) (c : Fault) (info : Nat) (a : Word), step s = .next t →
    t.outcome = .fatal c info a →
    t = { AfterFatal c info s.pc s with pc := t.pc } ∧
      t.pc = if s.pc.toNat ≥ 4095 then s.pc else s.pc + 2

/-- R26: every piece of state has one set of writers, and nothing else changes it: a piece that a
transaction changes is one that the writer matrix lets it write, and, for a `Step`, one that the
instruction it runs may write. `Load` writes from 0x200 up, `TickTimers` decrements, the configuration
is written by nothing, and the host reads `FB` and whether `ST` is 0 and no other piece: what a
transaction other than `Step` returns depends on no more. -/
def Obligations.OnlyListedWritersChangeState : Prop :=
  ∀ (x : Transaction) (s t : State) (r : Response), transact x s = .next (r, t) →
    t.config = s.config ∧ (∀ p : Piece, ¬ p.Same s t → MayWrite x s p) ∧
    (∀ bytes, x = .load bytes → ∀ a, a < 0x200 → t.memRead a = s.memRead a) ∧
    (x = .tickTimers → t.dt.toNat = s.dt.toNat - 1 ∧ t.st.toNat = s.st.toNat - 1) ∧
    ∀ (s' t' : State) (r' : Response), x ≠ .step → s'.fb = s.fb → (s'.st = 0 ↔ s.st = 0) →
      transact x s' = .next (r', t') → r' = r

/-- The sound timer influences nothing a program does: two states that differ only in `ST` step to
states that differ only in `ST`, with the same report. -/
def Obligations.SoundTimerNeverInfluencesStep : Prop :=
  ∀ (s t : State) (b : Byte), step s = .next t →
    ∃ b', step { s with st := b } = .next { t with st := b' }

/-- A slot of the stack at or above `SP` is dead: two states that differ only in dead slots step to
states that differ only in dead slots. -/
def Obligations.DeadStackSlotsNeverInfluenceStep : Prop :=
  ∀ (s t : State) (k : Vector Word 16),
    (∀ j (h : j < 16), j < s.sp.val → k[j] = s.stack[j]) → step s = .next t →
    ∃ k' : Vector Word 16, step { s with stack := k } = .next { t with stack := k' } ∧
      ∀ j (h : j < 16), j < t.sp.val → k'[j] = t.stack[j]
end

