-- ==== Sys2Proof/Laws/Decode.lean ====
section
/-! SUPPORT. The fields of a word put together from fields: one lemma per field per layout of
`30_encoding.md` R51 (`N1 NNN`, `N1 X NN`, `N1 X Y N`). -/

namespace Sys2Proof

theorem toNat_append_eq {a b : Nat} (u : BitVec a) (w : BitVec b) :
    (u ++ w).toNat = u.toNat * 2 ^ b + w.toNat := by
  rw [BitVec.toNat_append, ← Nat.shiftLeft_add_eq_or_of_lt w.isLt, Nat.shiftLeft_eq]

variable (n x y m : BitVec 4) (nn : Byte) (nnn : Addr12)

/-! ### The three layouts as numbers -/

theorem toNat_nnn : BitVec.toNat (w := 16) (n ++ nnn) = n.toNat * 4096 + nnn.toNat :=
  toNat_append_eq n nnn

theorem toNat_xnn :
    BitVec.toNat (w := 16) (n ++ x ++ nn) = n.toNat * 4096 + x.toNat * 256 + nn.toNat := by
  refine (toNat_append_eq (n ++ x) nn).trans ?_
  rw [toNat_append_eq]
  omega

theorem toNat_xyn :
    BitVec.toNat (w := 16) (n ++ x ++ y ++ m) =
      n.toNat * 4096 + x.toNat * 256 + y.toNat * 16 + m.toNat := by
  refine (toNat_append_eq (n ++ x ++ y) m).trans ?_
  rw [toNat_append_eq, toNat_append_eq]
  omega

/-! ### The fields of a word as numbers -/

theorem toNat_fieldN1 (w : Word) : (fieldN1 w).toNat = w.toNat / 4096 % 16 := by
  simp [fieldN1, Nat.shiftRight_eq_div_pow]

theorem toNat_fieldX (w : Word) : (fieldX w).toNat = w.toNat / 256 % 16 := by
  simp [fieldX, Nat.shiftRight_eq_div_pow]

theorem toNat_fieldY (w : Word) : (fieldY w).toNat = w.toNat / 16 % 16 := by
  simp [fieldY, Nat.shiftRight_eq_div_pow]

theorem toNat_fieldN (w : Word) : (fieldN w).toNat = w.toNat % 16 := by
  simp [fieldN]

theorem toNat_fieldNN (w : Word) : (fieldNN w).toNat = w.toNat % 256 := by
  simp [fieldNN]

theorem toNat_fieldNNN (w : Word) : (fieldNNN w).toNat = w.toNat % 4096 := by
  simp [fieldNNN]

/-! ### N1 NNN -/

@[simp] theorem fieldN1_nnn : fieldN1 (n ++ nnn) = n := by
  apply BitVec.eq_of_toNat_eq
  rw [toNat_fieldN1, toNat_nnn]
  omega

@[simp] theorem fieldNNN_nnn : fieldNNN (n ++ nnn) = nnn := by
  apply BitVec.eq_of_toNat_eq
  rw [toNat_fieldNNN, toNat_nnn]
  omega

/-! ### N1 X NN -/

@[simp] theorem fieldN1_xnn : fieldN1 (n ++ x ++ nn) = n := by
  apply BitVec.eq_of_toNat_eq
  rw [toNat_fieldN1, toNat_xnn]
  omega

@[simp] theorem fieldX_xnn : fieldX (n ++ x ++ nn) = x := by
  apply BitVec.eq_of_toNat_eq
  rw [toNat_fieldX, toNat_xnn]
  omega

@[simp] theorem fieldNN_xnn : fieldNN (n ++ x ++ nn) = nn := by
  apply BitVec.eq_of_toNat_eq
  rw [toNat_fieldNN, toNat_xnn]
  omega

/-! ### N1 X Y N -/

@[simp] theorem fieldN1_xyn : fieldN1 (n ++ x ++ y ++ m) = n := by
  apply BitVec.eq_of_toNat_eq
  rw [toNat_fieldN1, toNat_xyn]
  omega

@[simp] theorem fieldX_xyn : fieldX (n ++ x ++ y ++ m) = x := by
  apply BitVec.eq_of_toNat_eq
  rw [toNat_fieldX, toNat_xyn]
  omega

@[simp] theorem fieldY_xyn : fieldY (n ++ x ++ y ++ m) = y := by
  apply BitVec.eq_of_toNat_eq
  rw [toNat_fieldY, toNat_xyn]
  omega

@[simp] theorem fieldN_xyn : fieldN (n ++ x ++ y ++ m) = m := by
  apply BitVec.eq_of_toNat_eq
  rw [toNat_fieldN, toNat_xyn]
  omega

/-! ### Words and their bytes -/

theorem toNat_wordOfBytes (hi lo : Byte) :
    (wordOfBytes hi lo).toNat = hi.toNat * 256 + lo.toNat :=
  toNat_append_eq hi lo

@[simp] theorem wordOfBytes_bytesOfWord (w : Word) :
    wordOfBytes (w.extractLsb' 8 8) (w.extractLsb' 0 8) = w := by
  apply BitVec.eq_of_toNat_eq
  rw [toNat_wordOfBytes]
  simp only [BitVec.extractLsb'_toNat, Nat.shiftRight_eq_div_pow]
  omega

/-- Decoding the bytes of an instruction's word is decoding the word, and the bytes after it remain. -/
theorem decodeBytes_encodeBytes (i : Instr) (rest : List Byte) :
    decodeBytes (encodeBytes i ++ rest) =
      (decode (encode i)).map fun j => (j, rest) := by
  simp only [encodeBytes, bytesOfWord, List.cons_append, List.nil_append, decodeBytes,
    wordOfBytes_bytesOfWord]
  cases decode (encode i) <;> rfl

end Sys2Proof
end

