-- ==== Sys2Proof/Laws/State.lean ====
section
/-! SUPPORT. One lemma per field per update of State, true by rfl, so that no later proof unfolds a
record update. -/

namespace Sys2Proof.Machine

variable (s : State)

/-! ### State.setReg -/

@[simp] theorem State.setReg_v (x : Reg) (b : Byte) : (s.setReg x b).v = s.v.set x.toNat b x.isLt := rfl
@[simp] theorem State.setReg_i (x : Reg) (b : Byte) : (s.setReg x b).i = s.i := rfl
@[simp] theorem State.setReg_pc (x : Reg) (b : Byte) : (s.setReg x b).pc = s.pc := rfl
@[simp] theorem State.setReg_sp (x : Reg) (b : Byte) : (s.setReg x b).sp = s.sp := rfl
@[simp] theorem State.setReg_stack (x : Reg) (b : Byte) : (s.setReg x b).stack = s.stack := rfl
@[simp] theorem State.setReg_mem (x : Reg) (b : Byte) : (s.setReg x b).mem = s.mem := rfl
@[simp] theorem State.setReg_fb (x : Reg) (b : Byte) : (s.setReg x b).fb = s.fb := rfl
@[simp] theorem State.setReg_key (x : Reg) (b : Byte) : (s.setReg x b).key = s.key := rfl
@[simp] theorem State.setReg_dt (x : Reg) (b : Byte) : (s.setReg x b).dt = s.dt := rfl
@[simp] theorem State.setReg_st (x : Reg) (b : Byte) : (s.setReg x b).st = s.st := rfl
@[simp] theorem State.setReg_fault (x : Reg) (b : Byte) : (s.setReg x b).fault = s.fault := rfl
@[simp] theorem State.setReg_outcome (x : Reg) (b : Byte) : (s.setReg x b).outcome = s.outcome := rfl
@[simp] theorem State.setReg_draws (x : Reg) (b : Byte) : (s.setReg x b).draws = s.draws := rfl
@[simp] theorem State.setReg_config (x : Reg) (b : Byte) : (s.setReg x b).config = s.config := rfl

/-! ### State.setRegs -/

@[simp] theorem State.setRegs_v (v : Vector Byte 16) : (s.setRegs v).v = v := rfl
@[simp] theorem State.setRegs_i (v : Vector Byte 16) : (s.setRegs v).i = s.i := rfl
@[simp] theorem State.setRegs_pc (v : Vector Byte 16) : (s.setRegs v).pc = s.pc := rfl
@[simp] theorem State.setRegs_sp (v : Vector Byte 16) : (s.setRegs v).sp = s.sp := rfl
@[simp] theorem State.setRegs_stack (v : Vector Byte 16) : (s.setRegs v).stack = s.stack := rfl
@[simp] theorem State.setRegs_mem (v : Vector Byte 16) : (s.setRegs v).mem = s.mem := rfl
@[simp] theorem State.setRegs_fb (v : Vector Byte 16) : (s.setRegs v).fb = s.fb := rfl
@[simp] theorem State.setRegs_key (v : Vector Byte 16) : (s.setRegs v).key = s.key := rfl
@[simp] theorem State.setRegs_dt (v : Vector Byte 16) : (s.setRegs v).dt = s.dt := rfl
@[simp] theorem State.setRegs_st (v : Vector Byte 16) : (s.setRegs v).st = s.st := rfl
@[simp] theorem State.setRegs_fault (v : Vector Byte 16) : (s.setRegs v).fault = s.fault := rfl
@[simp] theorem State.setRegs_outcome (v : Vector Byte 16) : (s.setRegs v).outcome = s.outcome := rfl
@[simp] theorem State.setRegs_draws (v : Vector Byte 16) : (s.setRegs v).draws = s.draws := rfl
@[simp] theorem State.setRegs_config (v : Vector Byte 16) : (s.setRegs v).config = s.config := rfl

/-! ### State.setRegFlag -/

@[simp] theorem State.setRegFlag_i (x : Reg) (b : Byte) (p : Bool) : (s.setRegFlag x b p).i = s.i := rfl
@[simp] theorem State.setRegFlag_pc (x : Reg) (b : Byte) (p : Bool) : (s.setRegFlag x b p).pc = s.pc := rfl
@[simp] theorem State.setRegFlag_sp (x : Reg) (b : Byte) (p : Bool) : (s.setRegFlag x b p).sp = s.sp := rfl
@[simp] theorem State.setRegFlag_stack (x : Reg) (b : Byte) (p : Bool) : (s.setRegFlag x b p).stack = s.stack := rfl
@[simp] theorem State.setRegFlag_mem (x : Reg) (b : Byte) (p : Bool) : (s.setRegFlag x b p).mem = s.mem := rfl
@[simp] theorem State.setRegFlag_fb (x : Reg) (b : Byte) (p : Bool) : (s.setRegFlag x b p).fb = s.fb := rfl
@[simp] theorem State.setRegFlag_key (x : Reg) (b : Byte) (p : Bool) : (s.setRegFlag x b p).key = s.key := rfl
@[simp] theorem State.setRegFlag_dt (x : Reg) (b : Byte) (p : Bool) : (s.setRegFlag x b p).dt = s.dt := rfl
@[simp] theorem State.setRegFlag_st (x : Reg) (b : Byte) (p : Bool) : (s.setRegFlag x b p).st = s.st := rfl
@[simp] theorem State.setRegFlag_fault (x : Reg) (b : Byte) (p : Bool) : (s.setRegFlag x b p).fault = s.fault := rfl
@[simp] theorem State.setRegFlag_outcome (x : Reg) (b : Byte) (p : Bool) : (s.setRegFlag x b p).outcome = s.outcome := rfl
@[simp] theorem State.setRegFlag_draws (x : Reg) (b : Byte) (p : Bool) : (s.setRegFlag x b p).draws = s.draws := rfl
@[simp] theorem State.setRegFlag_config (x : Reg) (b : Byte) (p : Bool) : (s.setRegFlag x b p).config = s.config := rfl

/-! ### State.setI -/

@[simp] theorem State.setI_v (w : Word) : (s.setI w).v = s.v := rfl
@[simp] theorem State.setI_i (w : Word) : (s.setI w).i = w := rfl
@[simp] theorem State.setI_pc (w : Word) : (s.setI w).pc = s.pc := rfl
@[simp] theorem State.setI_sp (w : Word) : (s.setI w).sp = s.sp := rfl
@[simp] theorem State.setI_stack (w : Word) : (s.setI w).stack = s.stack := rfl
@[simp] theorem State.setI_mem (w : Word) : (s.setI w).mem = s.mem := rfl
@[simp] theorem State.setI_fb (w : Word) : (s.setI w).fb = s.fb := rfl
@[simp] theorem State.setI_key (w : Word) : (s.setI w).key = s.key := rfl
@[simp] theorem State.setI_dt (w : Word) : (s.setI w).dt = s.dt := rfl
@[simp] theorem State.setI_st (w : Word) : (s.setI w).st = s.st := rfl
@[simp] theorem State.setI_fault (w : Word) : (s.setI w).fault = s.fault := rfl
@[simp] theorem State.setI_outcome (w : Word) : (s.setI w).outcome = s.outcome := rfl
@[simp] theorem State.setI_draws (w : Word) : (s.setI w).draws = s.draws := rfl
@[simp] theorem State.setI_config (w : Word) : (s.setI w).config = s.config := rfl

/-! ### State.setPc -/

@[simp] theorem State.setPc_v (w : Word) : (s.setPc w).v = s.v := rfl
@[simp] theorem State.setPc_i (w : Word) : (s.setPc w).i = s.i := rfl
@[simp] theorem State.setPc_pc (w : Word) : (s.setPc w).pc = w := rfl
@[simp] theorem State.setPc_sp (w : Word) : (s.setPc w).sp = s.sp := rfl
@[simp] theorem State.setPc_stack (w : Word) : (s.setPc w).stack = s.stack := rfl
@[simp] theorem State.setPc_mem (w : Word) : (s.setPc w).mem = s.mem := rfl
@[simp] theorem State.setPc_fb (w : Word) : (s.setPc w).fb = s.fb := rfl
@[simp] theorem State.setPc_key (w : Word) : (s.setPc w).key = s.key := rfl
@[simp] theorem State.setPc_dt (w : Word) : (s.setPc w).dt = s.dt := rfl
@[simp] theorem State.setPc_st (w : Word) : (s.setPc w).st = s.st := rfl
@[simp] theorem State.setPc_fault (w : Word) : (s.setPc w).fault = s.fault := rfl
@[simp] theorem State.setPc_outcome (w : Word) : (s.setPc w).outcome = s.outcome := rfl
@[simp] theorem State.setPc_draws (w : Word) : (s.setPc w).draws = s.draws := rfl
@[simp] theorem State.setPc_config (w : Word) : (s.setPc w).config = s.config := rfl

/-! ### State.setDt -/

@[simp] theorem State.setDt_v (b : Byte) : (s.setDt b).v = s.v := rfl
@[simp] theorem State.setDt_i (b : Byte) : (s.setDt b).i = s.i := rfl
@[simp] theorem State.setDt_pc (b : Byte) : (s.setDt b).pc = s.pc := rfl
@[simp] theorem State.setDt_sp (b : Byte) : (s.setDt b).sp = s.sp := rfl
@[simp] theorem State.setDt_stack (b : Byte) : (s.setDt b).stack = s.stack := rfl
@[simp] theorem State.setDt_mem (b : Byte) : (s.setDt b).mem = s.mem := rfl
@[simp] theorem State.setDt_fb (b : Byte) : (s.setDt b).fb = s.fb := rfl
@[simp] theorem State.setDt_key (b : Byte) : (s.setDt b).key = s.key := rfl
@[simp] theorem State.setDt_dt (b : Byte) : (s.setDt b).dt = b := rfl
@[simp] theorem State.setDt_st (b : Byte) : (s.setDt b).st = s.st := rfl
@[simp] theorem State.setDt_fault (b : Byte) : (s.setDt b).fault = s.fault := rfl
@[simp] theorem State.setDt_outcome (b : Byte) : (s.setDt b).outcome = s.outcome := rfl
@[simp] theorem State.setDt_draws (b : Byte) : (s.setDt b).draws = s.draws := rfl
@[simp] theorem State.setDt_config (b : Byte) : (s.setDt b).config = s.config := rfl

/-! ### State.setSt -/

@[simp] theorem State.setSt_v (b : Byte) : (s.setSt b).v = s.v := rfl
@[simp] theorem State.setSt_i (b : Byte) : (s.setSt b).i = s.i := rfl
@[simp] theorem State.setSt_pc (b : Byte) : (s.setSt b).pc = s.pc := rfl
@[simp] theorem State.setSt_sp (b : Byte) : (s.setSt b).sp = s.sp := rfl
@[simp] theorem State.setSt_stack (b : Byte) : (s.setSt b).stack = s.stack := rfl
@[simp] theorem State.setSt_mem (b : Byte) : (s.setSt b).mem = s.mem := rfl
@[simp] theorem State.setSt_fb (b : Byte) : (s.setSt b).fb = s.fb := rfl
@[simp] theorem State.setSt_key (b : Byte) : (s.setSt b).key = s.key := rfl
@[simp] theorem State.setSt_dt (b : Byte) : (s.setSt b).dt = s.dt := rfl
@[simp] theorem State.setSt_st (b : Byte) : (s.setSt b).st = b := rfl
@[simp] theorem State.setSt_fault (b : Byte) : (s.setSt b).fault = s.fault := rfl
@[simp] theorem State.setSt_outcome (b : Byte) : (s.setSt b).outcome = s.outcome := rfl
@[simp] theorem State.setSt_draws (b : Byte) : (s.setSt b).draws = s.draws := rfl
@[simp] theorem State.setSt_config (b : Byte) : (s.setSt b).config = s.config := rfl

/-! ### State.setKey -/

@[simp] theorem State.setKey_v (k : Nibble) (p : Bool) : (s.setKey k p).v = s.v := rfl
@[simp] theorem State.setKey_i (k : Nibble) (p : Bool) : (s.setKey k p).i = s.i := rfl
@[simp] theorem State.setKey_pc (k : Nibble) (p : Bool) : (s.setKey k p).pc = s.pc := rfl
@[simp] theorem State.setKey_sp (k : Nibble) (p : Bool) : (s.setKey k p).sp = s.sp := rfl
@[simp] theorem State.setKey_stack (k : Nibble) (p : Bool) : (s.setKey k p).stack = s.stack := rfl
@[simp] theorem State.setKey_mem (k : Nibble) (p : Bool) : (s.setKey k p).mem = s.mem := rfl
@[simp] theorem State.setKey_fb (k : Nibble) (p : Bool) : (s.setKey k p).fb = s.fb := rfl
@[simp] theorem State.setKey_key (k : Nibble) (p : Bool) : (s.setKey k p).key = s.key.set k.toNat p k.isLt := rfl
@[simp] theorem State.setKey_dt (k : Nibble) (p : Bool) : (s.setKey k p).dt = s.dt := rfl
@[simp] theorem State.setKey_st (k : Nibble) (p : Bool) : (s.setKey k p).st = s.st := rfl
@[simp] theorem State.setKey_fault (k : Nibble) (p : Bool) : (s.setKey k p).fault = s.fault := rfl
@[simp] theorem State.setKey_outcome (k : Nibble) (p : Bool) : (s.setKey k p).outcome = s.outcome := rfl
@[simp] theorem State.setKey_draws (k : Nibble) (p : Bool) : (s.setKey k p).draws = s.draws := rfl
@[simp] theorem State.setKey_config (k : Nibble) (p : Bool) : (s.setKey k p).config = s.config := rfl

/-! ### State.setFb -/

@[simp] theorem State.setFb_v (fb : Screen) : (s.setFb fb).v = s.v := rfl
@[simp] theorem State.setFb_i (fb : Screen) : (s.setFb fb).i = s.i := rfl
@[simp] theorem State.setFb_pc (fb : Screen) : (s.setFb fb).pc = s.pc := rfl
@[simp] theorem State.setFb_sp (fb : Screen) : (s.setFb fb).sp = s.sp := rfl
@[simp] theorem State.setFb_stack (fb : Screen) : (s.setFb fb).stack = s.stack := rfl
@[simp] theorem State.setFb_mem (fb : Screen) : (s.setFb fb).mem = s.mem := rfl
@[simp] theorem State.setFb_fb (fb : Screen) : (s.setFb fb).fb = fb := rfl
@[simp] theorem State.setFb_key (fb : Screen) : (s.setFb fb).key = s.key := rfl
@[simp] theorem State.setFb_dt (fb : Screen) : (s.setFb fb).dt = s.dt := rfl
@[simp] theorem State.setFb_st (fb : Screen) : (s.setFb fb).st = s.st := rfl
@[simp] theorem State.setFb_fault (fb : Screen) : (s.setFb fb).fault = s.fault := rfl
@[simp] theorem State.setFb_outcome (fb : Screen) : (s.setFb fb).outcome = s.outcome := rfl
@[simp] theorem State.setFb_draws (fb : Screen) : (s.setFb fb).draws = s.draws := rfl
@[simp] theorem State.setFb_config (fb : Screen) : (s.setFb fb).config = s.config := rfl

/-! ### State.storeRun -/

@[simp] theorem State.storeRun_v (a : Nat) (bs : List Byte) : (s.storeRun a bs).v = s.v := rfl
@[simp] theorem State.storeRun_i (a : Nat) (bs : List Byte) : (s.storeRun a bs).i = s.i := rfl
@[simp] theorem State.storeRun_pc (a : Nat) (bs : List Byte) : (s.storeRun a bs).pc = s.pc := rfl
@[simp] theorem State.storeRun_sp (a : Nat) (bs : List Byte) : (s.storeRun a bs).sp = s.sp := rfl
@[simp] theorem State.storeRun_stack (a : Nat) (bs : List Byte) : (s.storeRun a bs).stack = s.stack := rfl
@[simp] theorem State.storeRun_mem (a : Nat) (bs : List Byte) : (s.storeRun a bs).mem = s.mem.setRun s.config a bs := rfl
@[simp] theorem State.storeRun_fb (a : Nat) (bs : List Byte) : (s.storeRun a bs).fb = s.fb := rfl
@[simp] theorem State.storeRun_key (a : Nat) (bs : List Byte) : (s.storeRun a bs).key = s.key := rfl
@[simp] theorem State.storeRun_dt (a : Nat) (bs : List Byte) : (s.storeRun a bs).dt = s.dt := rfl
@[simp] theorem State.storeRun_st (a : Nat) (bs : List Byte) : (s.storeRun a bs).st = s.st := rfl
@[simp] theorem State.storeRun_fault (a : Nat) (bs : List Byte) : (s.storeRun a bs).fault = s.fault := rfl
@[simp] theorem State.storeRun_outcome (a : Nat) (bs : List Byte) : (s.storeRun a bs).outcome = s.outcome := rfl
@[simp] theorem State.storeRun_draws (a : Nat) (bs : List Byte) : (s.storeRun a bs).draws = s.draws := rfl
@[simp] theorem State.storeRun_config (a : Nat) (bs : List Byte) : (s.storeRun a bs).config = s.config := rfl

/-! ### State.consumeRandom -/

@[simp] theorem State.consumeRandom_v : (s.consumeRandom).v = s.v := rfl
@[simp] theorem State.consumeRandom_i : (s.consumeRandom).i = s.i := rfl
@[simp] theorem State.consumeRandom_pc : (s.consumeRandom).pc = s.pc := rfl
@[simp] theorem State.consumeRandom_sp : (s.consumeRandom).sp = s.sp := rfl
@[simp] theorem State.consumeRandom_stack : (s.consumeRandom).stack = s.stack := rfl
@[simp] theorem State.consumeRandom_mem : (s.consumeRandom).mem = s.mem := rfl
@[simp] theorem State.consumeRandom_fb : (s.consumeRandom).fb = s.fb := rfl
@[simp] theorem State.consumeRandom_key : (s.consumeRandom).key = s.key := rfl
@[simp] theorem State.consumeRandom_dt : (s.consumeRandom).dt = s.dt := rfl
@[simp] theorem State.consumeRandom_st : (s.consumeRandom).st = s.st := rfl
@[simp] theorem State.consumeRandom_fault : (s.consumeRandom).fault = s.fault := rfl
@[simp] theorem State.consumeRandom_outcome : (s.consumeRandom).outcome = s.outcome := rfl
@[simp] theorem State.consumeRandom_draws : (s.consumeRandom).draws = s.draws + 1 := rfl
@[simp] theorem State.consumeRandom_config : (s.consumeRandom).config = s.config := rfl

/-! ### State.latch -/

@[simp] theorem State.latch_v (c : Fault) (n : Nat) (w : Word) : (s.latch c n w).v = s.v := rfl
@[simp] theorem State.latch_i (c : Fault) (n : Nat) (w : Word) : (s.latch c n w).i = s.i := rfl
@[simp] theorem State.latch_pc (c : Fault) (n : Nat) (w : Word) : (s.latch c n w).pc = s.pc := rfl
@[simp] theorem State.latch_sp (c : Fault) (n : Nat) (w : Word) : (s.latch c n w).sp = s.sp := rfl
@[simp] theorem State.latch_stack (c : Fault) (n : Nat) (w : Word) : (s.latch c n w).stack = s.stack := rfl
@[simp] theorem State.latch_mem (c : Fault) (n : Nat) (w : Word) : (s.latch c n w).mem = s.mem := rfl
@[simp] theorem State.latch_fb (c : Fault) (n : Nat) (w : Word) : (s.latch c n w).fb = s.fb := rfl
@[simp] theorem State.latch_key (c : Fault) (n : Nat) (w : Word) : (s.latch c n w).key = s.key := rfl
@[simp] theorem State.latch_dt (c : Fault) (n : Nat) (w : Word) : (s.latch c n w).dt = s.dt := rfl
@[simp] theorem State.latch_st (c : Fault) (n : Nat) (w : Word) : (s.latch c n w).st = s.st := rfl
@[simp] theorem State.latch_fault (c : Fault) (n : Nat) (w : Word) : (s.latch c n w).fault = some c := rfl
@[simp] theorem State.latch_outcome (c : Fault) (n : Nat) (w : Word) : (s.latch c n w).outcome = .fatal c n w := rfl
@[simp] theorem State.latch_draws (c : Fault) (n : Nat) (w : Word) : (s.latch c n w).draws = s.draws := rfl
@[simp] theorem State.latch_config (c : Fault) (n : Nat) (w : Word) : (s.latch c n w).config = s.config := rfl

/-! ### State.fetchFault -/

@[simp] theorem State.fetchFault_v : (s.fetchFault).v = s.v := rfl
@[simp] theorem State.fetchFault_i : (s.fetchFault).i = s.i := rfl
@[simp] theorem State.fetchFault_pc : (s.fetchFault).pc = s.pc := rfl
@[simp] theorem State.fetchFault_sp : (s.fetchFault).sp = s.sp := rfl
@[simp] theorem State.fetchFault_stack : (s.fetchFault).stack = s.stack := rfl
@[simp] theorem State.fetchFault_mem : (s.fetchFault).mem = s.mem := rfl
@[simp] theorem State.fetchFault_fb : (s.fetchFault).fb = s.fb := rfl
@[simp] theorem State.fetchFault_key : (s.fetchFault).key = s.key := rfl
@[simp] theorem State.fetchFault_dt : (s.fetchFault).dt = s.dt := rfl
@[simp] theorem State.fetchFault_st : (s.fetchFault).st = s.st := rfl
@[simp] theorem State.fetchFault_fault : (s.fetchFault).fault = some .addressError := rfl
@[simp] theorem State.fetchFault_outcome : (s.fetchFault).outcome = .fatal .addressError (max s.pc.toNat 4096) s.pc := rfl
@[simp] theorem State.fetchFault_draws : (s.fetchFault).draws = s.draws := rfl
@[simp] theorem State.fetchFault_config : (s.fetchFault).config = s.config := rfl

/-! ### State.advance -/

@[simp] theorem State.advance_v : (s.advance).v = s.v := rfl
@[simp] theorem State.advance_i : (s.advance).i = s.i := rfl
@[simp] theorem State.advance_pc : (s.advance).pc = s.pc + 2#16 := rfl
@[simp] theorem State.advance_sp : (s.advance).sp = s.sp := rfl
@[simp] theorem State.advance_stack : (s.advance).stack = s.stack := rfl
@[simp] theorem State.advance_mem : (s.advance).mem = s.mem := rfl
@[simp] theorem State.advance_fb : (s.advance).fb = s.fb := rfl
@[simp] theorem State.advance_key : (s.advance).key = s.key := rfl
@[simp] theorem State.advance_dt : (s.advance).dt = s.dt := rfl
@[simp] theorem State.advance_st : (s.advance).st = s.st := rfl
@[simp] theorem State.advance_fault : (s.advance).fault = s.fault := rfl
@[simp] theorem State.advance_outcome : (s.advance).outcome = .ok := rfl
@[simp] theorem State.advance_draws : (s.advance).draws = s.draws := rfl
@[simp] theorem State.advance_config : (s.advance).config = s.config := rfl

/-! ### State.reportUnimplemented -/

@[simp] theorem State.reportUnimplemented_v (w : Word) : (s.reportUnimplemented w).v = s.v := rfl
@[simp] theorem State.reportUnimplemented_i (w : Word) : (s.reportUnimplemented w).i = s.i := rfl
@[simp] theorem State.reportUnimplemented_pc (w : Word) : (s.reportUnimplemented w).pc = s.pc + 2#16 := rfl
@[simp] theorem State.reportUnimplemented_sp (w : Word) : (s.reportUnimplemented w).sp = s.sp := rfl
@[simp] theorem State.reportUnimplemented_stack (w : Word) : (s.reportUnimplemented w).stack = s.stack := rfl
@[simp] theorem State.reportUnimplemented_mem (w : Word) : (s.reportUnimplemented w).mem = s.mem := rfl
@[simp] theorem State.reportUnimplemented_fb (w : Word) : (s.reportUnimplemented w).fb = s.fb := rfl
@[simp] theorem State.reportUnimplemented_key (w : Word) : (s.reportUnimplemented w).key = s.key := rfl
@[simp] theorem State.reportUnimplemented_dt (w : Word) : (s.reportUnimplemented w).dt = s.dt := rfl
@[simp] theorem State.reportUnimplemented_st (w : Word) : (s.reportUnimplemented w).st = s.st := rfl
@[simp] theorem State.reportUnimplemented_fault (w : Word) : (s.reportUnimplemented w).fault = s.fault := rfl
@[simp] theorem State.reportUnimplemented_outcome (w : Word) : (s.reportUnimplemented w).outcome = .unimplemented w := rfl
@[simp] theorem State.reportUnimplemented_draws (w : Word) : (s.reportUnimplemented w).draws = s.draws := rfl
@[simp] theorem State.reportUnimplemented_config (w : Word) : (s.reportUnimplemented w).config = s.config := rfl

/-! ### State.reportHalted -/

@[simp] theorem State.reportHalted_v (c : Fault) : (s.reportHalted c).v = s.v := rfl
@[simp] theorem State.reportHalted_i (c : Fault) : (s.reportHalted c).i = s.i := rfl
@[simp] theorem State.reportHalted_pc (c : Fault) : (s.reportHalted c).pc = s.pc := rfl
@[simp] theorem State.reportHalted_sp (c : Fault) : (s.reportHalted c).sp = s.sp := rfl
@[simp] theorem State.reportHalted_stack (c : Fault) : (s.reportHalted c).stack = s.stack := rfl
@[simp] theorem State.reportHalted_mem (c : Fault) : (s.reportHalted c).mem = s.mem := rfl
@[simp] theorem State.reportHalted_fb (c : Fault) : (s.reportHalted c).fb = s.fb := rfl
@[simp] theorem State.reportHalted_key (c : Fault) : (s.reportHalted c).key = s.key := rfl
@[simp] theorem State.reportHalted_dt (c : Fault) : (s.reportHalted c).dt = s.dt := rfl
@[simp] theorem State.reportHalted_st (c : Fault) : (s.reportHalted c).st = s.st := rfl
@[simp] theorem State.reportHalted_fault (c : Fault) : (s.reportHalted c).fault = s.fault := rfl
@[simp] theorem State.reportHalted_outcome (c : Fault) : (s.reportHalted c).outcome = .halted c := rfl
@[simp] theorem State.reportHalted_draws (c : Fault) : (s.reportHalted c).draws = s.draws := rfl
@[simp] theorem State.reportHalted_config (c : Fault) : (s.reportHalted c).config = s.config := rfl

/-! ### skipIf and incIndex: a choice between the state and one update of it -/

@[simp] theorem skipIf_v (p : Bool) : (skipIf p s).v = s.v := by cases p <;> rfl
@[simp] theorem skipIf_i (p : Bool) : (skipIf p s).i = s.i := by cases p <;> rfl
theorem skipIf_pc (p : Bool) : (skipIf p s).pc = if p then s.pc + 2#16 else s.pc := by
  cases p <;> rfl
@[simp] theorem skipIf_sp (p : Bool) : (skipIf p s).sp = s.sp := by cases p <;> rfl
@[simp] theorem skipIf_stack (p : Bool) : (skipIf p s).stack = s.stack := by cases p <;> rfl
@[simp] theorem skipIf_mem (p : Bool) : (skipIf p s).mem = s.mem := by cases p <;> rfl
@[simp] theorem skipIf_fb (p : Bool) : (skipIf p s).fb = s.fb := by cases p <;> rfl
@[simp] theorem skipIf_key (p : Bool) : (skipIf p s).key = s.key := by cases p <;> rfl
@[simp] theorem skipIf_dt (p : Bool) : (skipIf p s).dt = s.dt := by cases p <;> rfl
@[simp] theorem skipIf_st (p : Bool) : (skipIf p s).st = s.st := by cases p <;> rfl
@[simp] theorem skipIf_fault (p : Bool) : (skipIf p s).fault = s.fault := by cases p <;> rfl
@[simp] theorem skipIf_outcome (p : Bool) : (skipIf p s).outcome = s.outcome := by cases p <;> rfl
@[simp] theorem skipIf_draws (p : Bool) : (skipIf p s).draws = s.draws := by cases p <;> rfl
@[simp] theorem skipIf_config (p : Bool) : (skipIf p s).config = s.config := by cases p <;> rfl
@[simp] theorem incIndex_v (x : Reg) : (incIndex x s).v = s.v := by
  unfold incIndex
  split <;> rfl
theorem incIndex_i (x : Reg) : (incIndex x s).i =
    if s.config.indexInc then s.i + x.setWidth 16 + 1#16 else s.i := by
  unfold incIndex
  split <;> rfl
@[simp] theorem incIndex_pc (x : Reg) : (incIndex x s).pc = s.pc := by
  unfold incIndex
  split <;> rfl
@[simp] theorem incIndex_sp (x : Reg) : (incIndex x s).sp = s.sp := by
  unfold incIndex
  split <;> rfl
@[simp] theorem incIndex_stack (x : Reg) : (incIndex x s).stack = s.stack := by
  unfold incIndex
  split <;> rfl
@[simp] theorem incIndex_mem (x : Reg) : (incIndex x s).mem = s.mem := by
  unfold incIndex
  split <;> rfl
@[simp] theorem incIndex_fb (x : Reg) : (incIndex x s).fb = s.fb := by
  unfold incIndex
  split <;> rfl
@[simp] theorem incIndex_key (x : Reg) : (incIndex x s).key = s.key := by
  unfold incIndex
  split <;> rfl
@[simp] theorem incIndex_dt (x : Reg) : (incIndex x s).dt = s.dt := by
  unfold incIndex
  split <;> rfl
@[simp] theorem incIndex_st (x : Reg) : (incIndex x s).st = s.st := by
  unfold incIndex
  split <;> rfl
@[simp] theorem incIndex_fault (x : Reg) : (incIndex x s).fault = s.fault := by
  unfold incIndex
  split <;> rfl
@[simp] theorem incIndex_outcome (x : Reg) : (incIndex x s).outcome = s.outcome := by
  unfold incIndex
  split <;> rfl
@[simp] theorem incIndex_draws (x : Reg) : (incIndex x s).draws = s.draws := by
  unfold incIndex
  split <;> rfl
@[simp] theorem incIndex_config (x : Reg) : (incIndex x s).config = s.config := by
  unfold incIndex
  split <;> rfl

/-! ### Registers and memory as instructions read them, after each update -/

@[simp] theorem State.setReg_memRead (x : Reg) (b : Byte) (a : Nat) : (s.setReg x b).memRead a = s.memRead a := rfl
@[simp] theorem State.setRegs_memRead (v : Vector Byte 16) (a : Nat) : (s.setRegs v).memRead a = s.memRead a := rfl
@[simp] theorem State.setRegFlag_memRead (x : Reg) (b : Byte) (p : Bool) (a : Nat) : (s.setRegFlag x b p).memRead a = s.memRead a := rfl
@[simp] theorem State.setI_reg (w : Word) (r : Reg) : (s.setI w).reg r = s.reg r := rfl
@[simp] theorem State.setI_memRead (w : Word) (a : Nat) : (s.setI w).memRead a = s.memRead a := rfl
@[simp] theorem State.setPc_reg (w : Word) (r : Reg) : (s.setPc w).reg r = s.reg r := rfl
@[simp] theorem State.setPc_memRead (w : Word) (a : Nat) : (s.setPc w).memRead a = s.memRead a := rfl
@[simp] theorem State.setDt_reg (b : Byte) (r : Reg) : (s.setDt b).reg r = s.reg r := rfl
@[simp] theorem State.setDt_memRead (b : Byte) (a : Nat) : (s.setDt b).memRead a = s.memRead a := rfl
@[simp] theorem State.setSt_reg (b : Byte) (r : Reg) : (s.setSt b).reg r = s.reg r := rfl
@[simp] theorem State.setSt_memRead (b : Byte) (a : Nat) : (s.setSt b).memRead a = s.memRead a := rfl
@[simp] theorem State.setKey_reg (k : Nibble) (p : Bool) (r : Reg) : (s.setKey k p).reg r = s.reg r := rfl
@[simp] theorem State.setKey_memRead (k : Nibble) (p : Bool) (a : Nat) : (s.setKey k p).memRead a = s.memRead a := rfl
@[simp] theorem State.setFb_reg (fb : Screen) (r : Reg) : (s.setFb fb).reg r = s.reg r := rfl
@[simp] theorem State.setFb_memRead (fb : Screen) (a : Nat) : (s.setFb fb).memRead a = s.memRead a := rfl
@[simp] theorem State.storeRun_reg (a : Nat) (bs : List Byte) (r : Reg) : (s.storeRun a bs).reg r = s.reg r := rfl
@[simp] theorem State.consumeRandom_reg (r : Reg) : (s.consumeRandom).reg r = s.reg r := rfl
@[simp] theorem State.consumeRandom_memRead (a : Nat) : (s.consumeRandom).memRead a = s.memRead a := rfl
@[simp] theorem State.latch_reg (c : Fault) (n : Nat) (w : Word) (r : Reg) : (s.latch c n w).reg r = s.reg r := rfl
@[simp] theorem State.latch_memRead (c : Fault) (n : Nat) (w : Word) (a : Nat) : (s.latch c n w).memRead a = s.memRead a := rfl
@[simp] theorem State.fetchFault_reg (r : Reg) : (s.fetchFault).reg r = s.reg r := rfl
@[simp] theorem State.fetchFault_memRead (a : Nat) : (s.fetchFault).memRead a = s.memRead a := rfl
@[simp] theorem State.advance_reg (r : Reg) : (s.advance).reg r = s.reg r := rfl
@[simp] theorem State.advance_memRead (a : Nat) : (s.advance).memRead a = s.memRead a := rfl
@[simp] theorem State.reportUnimplemented_reg (w : Word) (r : Reg) : (s.reportUnimplemented w).reg r = s.reg r := rfl
@[simp] theorem State.reportUnimplemented_memRead (w : Word) (a : Nat) : (s.reportUnimplemented w).memRead a = s.memRead a := rfl
@[simp] theorem State.reportHalted_reg (c : Fault) (r : Reg) : (s.reportHalted c).reg r = s.reg r := rfl
@[simp] theorem State.reportHalted_memRead (c : Fault) (a : Nat) : (s.reportHalted c).memRead a = s.memRead a := rfl
@[simp] theorem skipIf_reg (p : Bool) (r : Reg) : (skipIf p s).reg r = s.reg r := by cases p <;> rfl
@[simp] theorem skipIf_memRead (p : Bool) (k : Nat) : (skipIf p s).memRead k = s.memRead k := by
  cases p <;> rfl
@[simp] theorem incIndex_reg (x r : Reg) : (incIndex x s).reg r = s.reg r := by
  unfold incIndex
  split <;> rfl
@[simp] theorem incIndex_memRead (x : Reg) (k : Nat) : (incIndex x s).memRead k = s.memRead k := by
  unfold incIndex
  split <;> rfl

/-! ### The reset state -/

@[simp] theorem State.resetWith_v (c : Config) (k : Nat) : (State.resetWith c k).v = Vector.replicate 16 0#8 := rfl
@[simp] theorem State.resetWith_i (c : Config) (k : Nat) : (State.resetWith c k).i = 0#16 := rfl
@[simp] theorem State.resetWith_pc (c : Config) (k : Nat) : (State.resetWith c k).pc = 0x0200#16 := rfl
@[simp] theorem State.resetWith_sp (c : Config) (k : Nat) : (State.resetWith c k).sp = 0 := rfl
@[simp] theorem State.resetWith_stack (c : Config) (k : Nat) : (State.resetWith c k).stack = Vector.replicate 16 0#16 := rfl
@[simp] theorem State.resetWith_mem (c : Config) (k : Nat) : (State.resetWith c k).mem = [] := rfl
@[simp] theorem State.resetWith_fb (c : Config) (k : Nat) : (State.resetWith c k).fb = Vector.replicate 32 0#64 := rfl
@[simp] theorem State.resetWith_key (c : Config) (k : Nat) : (State.resetWith c k).key = Vector.replicate 16 false := rfl
@[simp] theorem State.resetWith_dt (c : Config) (k : Nat) : (State.resetWith c k).dt = 0#8 := rfl
@[simp] theorem State.resetWith_st (c : Config) (k : Nat) : (State.resetWith c k).st = 0#8 := rfl
@[simp] theorem State.resetWith_fault (c : Config) (k : Nat) : (State.resetWith c k).fault = none := rfl
@[simp] theorem State.resetWith_outcome (c : Config) (k : Nat) : (State.resetWith c k).outcome = .ok := rfl
@[simp] theorem State.resetWith_draws (c : Config) (k : Nat) : (State.resetWith c k).draws = k := rfl
@[simp] theorem State.resetWith_config (c : Config) (k : Nat) : (State.resetWith c k).config = c := rfl

end Sys2Proof.Machine
end

