-- ==== Sys2Proof/Laws/Display.lean ====
section
/-! SUPPORT. The display cell by cell. -/

namespace Sys2Proof.Machine

/-- The bit of a row that names one column. -/
theorem getMsbD_columnBit (x x' : Fin 64) :
    (1#64 <<< (63 - x.val)).getMsbD x'.val = decide (x' = x) := by
  rw [BitVec.getMsbD_shiftLeft, BitVec.getMsbD_one]
  simp only [Fin.ext_iff, show (0 < 64) = True by simp, decide_true, Bool.and_true]
  congr 1
  apply propext
  omega

/-- What a flip does: the cell is inverted, every other cell is as before. -/
theorem Screen.cell_flip (fb : Screen) (x x' : Fin 64) (y y' : Fin 32) :
    Screen.cell (Screen.flip fb x y) x' y' =
      (Screen.cell fb x' y' ^^ (decide (x' = x) && decide (y' = y))) := by
  unfold Screen.cell Screen.flip
  simp only [Fin.getElem_fin, Vector.getElem_set]
  by_cases h : y.val = y'.val
  · have hy : y = y' := Fin.ext h
    subst hy
    rw [if_pos rfl, BitVec.getMsbD_xor, getMsbD_columnBit, decide_eq_true rfl, Bool.and_true]
  · have hy : y' ≠ y := fun e => h (congrArg Fin.val e.symm)
    simp [h, hy]

@[simp] theorem Screen.cell_blank (x : Fin 64) (y : Fin 32) :
    Screen.cell blankScreen x y = false := by
  simp [Screen.cell, blankScreen]

/-- Displays with the same cells are the same. -/
theorem Screen.ext_of_cells {a b : Screen} (h : ∀ x y, Screen.cell a x y = Screen.cell b x y) :
    a = b := by
  refine Vector.ext fun k hk => BitVec.eq_of_getMsbD_eq fun j hj => ?_
  exact h ⟨j, hj⟩ ⟨k, hk⟩

/-- What one sprite bit of 1 does. -/
theorem plot_cell (x x' : Fin 64) (y y' : Fin 32) (d : Drawing) :
    Screen.cell (plot x y d).screen x' y' =
      (Screen.cell d.screen x' y' ^^ (decide (x' = x) && decide (y' = y))) :=
  Screen.cell_flip d.screen x x' y y'

theorem plot_collision (x : Fin 64) (y : Fin 32) (d : Drawing) :
    (plot x y d).collision = (d.collision || Screen.cell d.screen x y) := rfl

/-! ## Sprites -/

/-- One row of a sprite from column `x0`: the columns `cs` whose bit of `b` is 1 cover column `cx`. -/
def rowCovers (b : Byte) (x0 : Nat) (cs : List Nat) (cx : Fin 64) : Prop :=
  ∃ c ∈ cs, b.getMsbD c = true ∧ cx.val = (x0 + c) % 64

/-- A sprite from column `x0`, row `y0`, covers column `cx`, row `cy`. -/
def pixelsCover (x0 y0 : Nat) (bs : List Byte) (cx : Fin 64) (cy : Fin 32) : Prop :=
  ∃ r c b, bs[r]? = some b ∧ c < 8 ∧ b.getMsbD c = true ∧ cx.val = (x0 + c) % 64 ∧
    cy.val = (y0 + r) % 32

theorem rowCovers_nil (b : Byte) (x0 : Nat) (cx : Fin 64) : ¬ rowCovers b x0 [] cx := by
  simp [rowCovers]

theorem rowCovers_cons (b : Byte) (x0 c : Nat) (cs : List Nat) (cx : Fin 64) :
    rowCovers b x0 (c :: cs) cx ↔
      (b.getMsbD c = true ∧ cx.val = (x0 + c) % 64) ∨ rowCovers b x0 cs cx := by
  simp [rowCovers]

/-- What the columns of one sprite byte do: the covered cells of the row are inverted, no other cell
is, and the collision is set iff it was or a covered cell was 1. -/
theorem plotColumns_spec (b : Byte) (x0 : Nat) (y : Fin 32) :
    ∀ (cs : List Nat) (d : Drawing), (∀ c ∈ cs, c < 8) → cs.Nodup →
    (∀ cx cy, (Screen.cell (plotColumns b x0 y cs d).screen cx cy = true ↔
      (Screen.cell d.screen cx cy = true ∧ ¬ (cy = y ∧ rowCovers b x0 cs cx)) ∨
      (Screen.cell d.screen cx cy = false ∧ cy = y ∧ rowCovers b x0 cs cx))) ∧
    ((plotColumns b x0 y cs d).collision = true ↔ d.collision = true ∨
      ∃ cx, Screen.cell d.screen cx y = true ∧ rowCovers b x0 cs cx)
  | [], d, _, _ => by simp [plotColumns, rowCovers_nil]
  | c :: cs, d, h8, hnd => by
    have hc : c < 8 := h8 c (by simp)
    have hnd' := List.nodup_cons.mp hnd
    have h8' : ∀ k ∈ cs, k < 8 := fun k hk => h8 k (by simp [hk])
    have hdis : ∀ cx : Fin 64, cx.val = (x0 + c) % 64 → ¬ rowCovers b x0 cs cx := by
      rintro cx e ⟨k, hk, -, e'⟩
      have := h8' k hk
      have : k = c := by omega
      exact hnd'.1 (this ▸ hk)
    rw [plotColumns]
    by_cases hb : b.getMsbD c = true
    · obtain ⟨x1, hx1⟩ : ∃ x1 : Fin 64, x1 = Fin.ofNat 64 (x0 + c) := ⟨_, rfl⟩
      have hx1v : x1.val = (x0 + c) % 64 := by rw [hx1]; rfl
      rw [if_pos hb, ← hx1]
      obtain ⟨ih1, ih2⟩ := plotColumns_spec b x0 y cs (plot x1 y d) h8' hnd'.2
      have hx1d := hdis x1 hx1v
      have ex : ∀ cx : Fin 64, cx.val = (x0 + c) % 64 ↔ cx = x1 := fun cx => by
        rw [← hx1v, Fin.ext_iff]
      simp only [rowCovers_cons, hb, true_and, ex]
      constructor
      · intro cx cy
        rw [ih1, plot_cell]
        by_cases hy : cy = y
        · by_cases hcx : cx = x1
          · subst hcx
            cases Screen.cell d.screen cx cy <;> simp [hy, hx1d]
          · simp [hy, hcx]
        · simp [hy]
      · rw [ih2, plot_collision, Bool.or_eq_true]
        constructor
        · rintro ((h | h) | ⟨cx, h1, h2⟩)
          · exact .inl h
          · exact .inr ⟨x1, h, .inl rfl⟩
          · have hcx : cx ≠ x1 := fun e => hx1d (e ▸ h2)
            rw [plot_cell] at h1
            exact .inr ⟨cx, by simpa [hcx] using h1, .inr h2⟩
        · rintro (h | ⟨cx, h1, rfl | h2⟩)
          · exact .inl (.inl h)
          · exact .inl (.inr h1)
          · have hcx : cx ≠ x1 := fun e => hx1d (e ▸ h2)
            refine .inr ⟨cx, ?_, h2⟩
            rw [plot_cell]
            simpa [hcx] using h1
    · rw [if_neg hb]
      have := plotColumns_spec b x0 y cs d h8' hnd'.2
      simpa only [rowCovers_cons, hb, Bool.false_eq_true, false_and, false_or] using this

theorem pixelsCover_cons (x0 y0 : Nat) (b : Byte) (bs : List Byte) (cx : Fin 64) (cy : Fin 32) :
    pixelsCover x0 y0 (b :: bs) cx cy ↔
      (cy = Fin.ofNat 32 y0 ∧ rowCovers b x0 [0, 1, 2, 3, 4, 5, 6, 7] cx) ∨
      pixelsCover x0 (y0 + 1) bs cx cy := by
  have mem8 : ∀ c : Nat, c ∈ [0, 1, 2, 3, 4, 5, 6, 7] ↔ c < 8 := by
    intro c
    simp
    omega
  constructor
  · rintro ⟨r, c, b', h1, h2, h3, h4, h5⟩
    cases r with
    | zero =>
      obtain rfl : b = b' := by simpa using h1
      exact .inl ⟨Fin.ext h5, c, (mem8 c).2 h2, h3, h4⟩
    | succ r =>
      exact .inr ⟨r, c, b', by simpa using h1, h2, h3, h4, by omega⟩
  · rintro (⟨rfl, c, h2, h3, h4⟩ | ⟨r, c, b', h1, h2, h3, h4, h5⟩)
    · exact ⟨0, c, b, rfl, (mem8 c).1 h2, h3, h4, rfl⟩
    · exact ⟨r + 1, c, b', by simpa using h1, h2, h3, h4, by omega⟩

/-- What a whole sprite of at most 32 rows does: the covered cells are inverted, no other cell is, and
the collision is set iff it was or a covered cell was 1. -/
theorem plotRows_spec (x0 : Nat) : ∀ (bs : List Byte) (y0 : Nat) (d : Drawing), bs.length ≤ 32 →
    (∀ cx cy, Screen.cell (plotRows x0 y0 bs d).screen cx cy = true ↔
      (Screen.cell d.screen cx cy = true ∧ ¬ pixelsCover x0 y0 bs cx cy) ∨
      (Screen.cell d.screen cx cy = false ∧ pixelsCover x0 y0 bs cx cy)) ∧
    ((plotRows x0 y0 bs d).collision = true ↔ d.collision = true ∨
      ∃ cx cy, Screen.cell d.screen cx cy = true ∧ pixelsCover x0 y0 bs cx cy)
  | [], y0, d, _ => by simp [plotRows, pixelsCover]
  | b :: bs, y0, d, hl => by
    have hl' : bs.length + 1 ≤ 32 := by simpa using hl
    obtain ⟨y1, hy1⟩ : ∃ y1 : Fin 32, y1 = Fin.ofNat 32 y0 := ⟨_, rfl⟩
    have hy1v : y1.val = y0 % 32 := by rw [hy1]; rfl
    have hdis : ∀ cx, ¬ pixelsCover x0 (y0 + 1) bs cx y1 := by
      rintro cx ⟨r, c, b', h1, -, -, -, h5⟩
      have := (List.getElem?_eq_some_iff.1 h1).1
      omega
    obtain ⟨p1, p2⟩ :=
      plotColumns_spec b x0 y1 [0, 1, 2, 3, 4, 5, 6, 7] d (by decide) (by decide)
    obtain ⟨q1, q2⟩ := plotRows_spec x0 bs (y0 + 1)
      (plotColumns b x0 y1 [0, 1, 2, 3, 4, 5, 6, 7] d) (by omega)
    rw [plotRows, ← hy1]
    simp only [pixelsCover_cons, ← hy1]
    constructor
    · intro cx cy
      rw [q1, ← Bool.not_eq_true, p1]
      by_cases hy : cy = y1
      · subst hy
        have := hdis cx
        by_cases hr : rowCovers b x0 [0, 1, 2, 3, 4, 5, 6, 7] cx <;>
          cases Screen.cell d.screen cx cy <;> simp [this, hr]
      · simp [hy]
    · rw [q2, p2]
      constructor
      · rintro ((h | ⟨cx, h1, h2⟩) | ⟨cx, cy, h1, h2⟩)
        · exact .inl h
        · exact .inr ⟨cx, y1, h1, .inl ⟨rfl, h2⟩⟩
        · have hy : cy ≠ y1 := fun e => hdis cx (e ▸ h2)
          exact .inr ⟨cx, cy, by simpa [p1, hy] using h1, .inr h2⟩
      · rintro (h | ⟨cx, cy, h1, ⟨rfl, h2⟩ | h2⟩)
        · exact .inl (.inl h)
        · exact .inl (.inr ⟨cx, h1, h2⟩)
        · have hy : cy ≠ y1 := fun e => hdis cx (e ▸ h2)
          exact .inr ⟨cx, cy, by simpa [p1, hy] using h1, h2⟩

end Sys2Proof.Machine
end

