-- ==== Sys2Proof/Laws/Memory.lean ====
section
/-! SUPPORT. What memory does: a read after a write, and that every operation keeps the canonical
form. -/

namespace Sys2Proof.Machine

variable (c : Config)

@[simp] theorem memSize_eq : memSize = 4096 := rfl

theorem Memory.get_put (a : Nat) (b : Byte) (m : Memory) (a' : Nat)
    (hm : Memory.get c m a = resetByte c a) :
    Memory.get c (Memory.put c a b m) a' = if a' = a then b else Memory.get c m a' := by
  unfold Memory.put
  by_cases hb : b = resetByte c a
  · rw [if_pos hb]
    by_cases ha : a' = a
    · subst ha
      rw [if_pos rfl, hm, hb]
    · rw [if_neg ha]
  · rw [if_neg hb]
    rfl

/-- An address below every listed one reads as an unlisted address. -/
theorem Memory.get_of_below (a : Nat) :
    ∀ m : Memory, (∀ p ∈ m, a < p.1) → Memory.get c m a = resetByte c a
  | [], _ => rfl
  | (k, d) :: m, h => by
    have hk : a < k := h (k, d) (by simp)
    rw [Memory.get, if_neg (by omega)]
    exact Memory.get_of_below a m fun p hp => h p (by simp [hp])

theorem Memory.get_cons_ne {k a : Nat} (d : Byte) (m : Memory) (h : a ≠ k) :
    Memory.get c ((k, d) :: m) a = Memory.get c m a := if_neg h

/-- A write to one address leaves the byte at every other, whatever form the memory has. -/
theorem Memory.get_set_ne (a a' : Nat) (b : Byte) (h : a' ≠ a) :
    ∀ m : Memory, Memory.get c (Memory.set c m a b) a' = Memory.get c m a'
  | [] => by
    unfold Memory.set Memory.put
    split
    · rfl
    · exact Memory.get_cons_ne c b _ h
  | (k, d) :: m => by
    unfold Memory.set Memory.put
    split
    · split
      · rfl
      · exact Memory.get_cons_ne c b _ h
    · split
      · rename_i hk
        subst hk
        split
        · exact (Memory.get_cons_ne c d _ h).symm
        · rw [Memory.get_cons_ne c b _ h, Memory.get_cons_ne c d _ h]
      · rw [Memory.get, Memory.get, Memory.get_set_ne a a' b h m]

/-- A run of writes leaves every byte below it, whatever form the memory has. -/
theorem Memory.get_setRun_of_lt (a' : Nat) : ∀ (bs : List Byte) (a : Nat) (m : Memory), a' < a →
    Memory.get c (Memory.setRun c m a bs) a' = Memory.get c m a'
  | [], _, _, _ => rfl
  | b :: bs, a, m, h => by
    rw [Memory.setRun, Memory.get_setRun_of_lt a' bs (a + 1) _ (by omega),
      Memory.get_set_ne c a a' b (by omega)]

/-- A read after a write: the byte written at its address, every other address as before. -/
theorem Memory.get_set (a a' : Nat) (b : Byte) :
    ∀ m : Memory, m.Pairwise (fun p q => p.1 < q.1) →
      Memory.get c (Memory.set c m a b) a' = if a' = a then b else Memory.get c m a'
  | [], _ => Memory.get_put c a b [] a' rfl
  | (k, d) :: m, h => by
    have hr := (List.pairwise_cons.mp h).1
    have hm := (List.pairwise_cons.mp h).2
    unfold Memory.set
    by_cases h1 : a < k
    · rw [if_pos h1]
      refine Memory.get_put c a b _ a' (Memory.get_of_below c a _ ?_)
      intro p hp
      rcases List.mem_cons.mp hp with rfl | hp
      · exact h1
      · exact Nat.lt_trans h1 (hr p hp)
    · rw [if_neg h1]
      by_cases h2 : a = k
      · subst h2
        rw [if_pos rfl, Memory.get_put c a b m a' (Memory.get_of_below c a m hr)]
        by_cases h3 : a' = a <;> simp [Memory.get, h3]
      · rw [if_neg h2, Memory.get, Memory.get_set a a' b m hm, Memory.get]
        by_cases h3 : a' = k
        · rw [if_pos h3, if_pos h3, if_neg (by omega)]
        · rw [if_neg h3, if_neg h3]

/-- An entry of a changed memory is an old one or the new one. -/
theorem Memory.mem_set (a : Nat) (b : Byte) (p : Host.Cell) :
    ∀ m : Memory, p ∈ Memory.set c m a b → p ∈ m ∨ (p = (a, b) ∧ b ≠ resetByte c a)
  | [], h => by
    unfold Memory.set Memory.put at h
    split at h
    · simp at h
    · rename_i hb
      exact .inr ⟨by simpa using h, hb⟩
  | (k, d) :: m, h => by
    unfold Memory.set Memory.put at h
    split at h
    · split at h
      · exact .inl h
      · rename_i hb
        rcases List.mem_cons.mp h with rfl | h
        · exact .inr ⟨rfl, hb⟩
        · exact .inl h
    · split at h
      · split at h
        · exact .inl (List.mem_cons_of_mem _ h)
        · rename_i hb
          rcases List.mem_cons.mp h with rfl | h
          · exact .inr ⟨rfl, hb⟩
          · exact .inl (List.mem_cons_of_mem _ h)
      · rcases List.mem_cons.mp h with rfl | h
        · exact .inl (by simp)
        · exact (Memory.mem_set a b p m h).imp (List.mem_cons_of_mem _) id

theorem Memory.pairwise_set (a : Nat) (b : Byte) :
    ∀ m : Memory, m.Pairwise (fun p q => p.1 < q.1) →
      (Memory.set c m a b).Pairwise (fun p q => p.1 < q.1)
  | [], _ => by
    unfold Memory.set Memory.put
    split <;> simp
  | (k, d) :: m, h => by
    have hr := (List.pairwise_cons.mp h).1
    have hm := (List.pairwise_cons.mp h).2
    unfold Memory.set Memory.put
    split
    · split
      · exact h
      · refine List.pairwise_cons.mpr ⟨fun p hp => ?_, h⟩
        rcases List.mem_cons.mp hp with rfl | hp
        · assumption
        · exact Nat.lt_trans ‹a < k› (hr p hp)
    · split
      · rename_i hak
        subst hak
        split
        · exact hm
        · exact List.pairwise_cons.mpr ⟨hr, hm⟩
      · refine List.pairwise_cons.mpr ⟨fun p hp => ?_, Memory.pairwise_set a b m hm⟩
        rcases Memory.mem_set c a b p m hp with hp | ⟨rfl, -⟩
        · exact hr p hp
        · show k < a
          omega

/-- A write inside `0..4095` keeps the canonical form. -/
theorem Memory.set_wf {m : Memory} (h : m.wf c) {a : Nat} (ha : a < memSize) (b : Byte) :
    (m.set c a b).wf c := by
  refine ⟨Memory.pairwise_set c a b m h.1, fun p hp => ?_⟩
  rcases Memory.mem_set c a b p m hp with hp | ⟨rfl, hb⟩
  · exact h.2 p hp
  · exact ⟨ha, hb⟩

/-- A run of writes inside `0..4095` keeps the canonical form. -/
theorem Memory.setRun_wf : ∀ (bs : List Byte) (a : Nat) {m : Memory}, m.wf c →
    (bs = [] ∨ a + bs.length ≤ memSize) → (m.setRun c a bs).wf c
  | [], _, _, h, _ => h
  | b :: bs, a, m, h, hl => by
    have hl' : a + (bs.length + 1) ≤ memSize := by simpa using hl
    exact Memory.setRun_wf bs (a + 1) (Memory.set_wf c h (by omega) b) (.inr (by omega))

/-- A read after a run of writes: byte `j` of the run at `a + j`, every other address as before. -/
theorem Memory.get_setRun (a' : Nat) : ∀ (bs : List Byte) (a : Nat) {m : Memory},
    m.Pairwise (fun p q => p.1 < q.1) →
    Memory.get c (Memory.setRun c m a bs) a' =
      if h : a ≤ a' ∧ a' - a < bs.length then bs[a' - a] else Memory.get c m a'
  | [], _, _, _ => by simp [Memory.setRun]
  | b :: bs, a, m, h => by
    rw [Memory.setRun, Memory.get_setRun a' bs (a + 1) (Memory.pairwise_set c a b m h),
      Memory.get_set c a a' b m h]
    by_cases h1 : a' = a
    · subst h1
      simp
    · by_cases h2 : a + 1 ≤ a' ∧ a' - (a + 1) < bs.length
      · have h3 : a ≤ a' ∧ a' - a < (b :: bs).length := by simp; omega
        have h4 : a' - a = (a' - (a + 1)) + 1 := by omega
        rw [dif_pos h2, dif_pos h3]
        simp only [h4, List.getElem_cons_succ]
      · have h3 : ¬ (a ≤ a' ∧ a' - a < (b :: bs).length) := by simp; omega
        rw [dif_neg h2, dif_neg h3, if_neg h1]

@[simp] theorem Memory.length_getRun (m : Memory) :
    ∀ a len : Nat, (Memory.getRun c m a len).length = len
  | _, 0 => rfl
  | a, len + 1 => by simp [Memory.getRun, Memory.length_getRun m (a + 1) len]

@[simp] theorem Memory.getElem_getRun (m : Memory) :
    ∀ (a len j : Nat) (h : j < (Memory.getRun c m a len).length),
      (Memory.getRun c m a len)[j] = Memory.get c m (a + j)
  | _, 0, _, h => by simp [Memory.getRun] at h
  | a, len + 1, 0, _ => rfl
  | a, len + 1, j + 1, h => by
    have := Memory.getElem_getRun m (a + 1) len j (by simpa using h)
    simp only [Memory.getRun, List.getElem_cons_succ, this]
    congr 1
    omega

/-- The empty memory, which is the memory at reset, has the canonical form. -/
theorem Memory.wf_nil : Memory.wf c [] := by simp [Memory.wf]

/-- Two canonical memories that read the same everywhere are the same data. -/
theorem Memory.ext_of_wf : ∀ {m n : Memory}, m.wf c → n.wf c →
    (∀ a, m.get c a = n.get c a) → m = n
  | [], [], _, _, _ => rfl
  | [], (k, d) :: n, _, hn, h => by
    have := h k
    simp only [Memory.get, if_true] at this
    exact absurd this.symm (hn.2 (k, d) (by simp)).2
  | (k, d) :: m, [], hm, _, h => by
    have := h k
    simp only [Memory.get, if_true] at this
    exact absurd this (hm.2 (k, d) (by simp)).2
  | (k, d) :: m, (l, e) :: n, hm, hn, h => by
    have hm1 := List.pairwise_cons.mp hm.1
    have hn1 := List.pairwise_cons.mp hn.1
    have hd := (hm.2 (k, d) (by simp)).2
    have he := (hn.2 (l, e) (by simp)).2
    have hkl : k = l := by
      rcases Nat.lt_trichotomy k l with hlt | heq | hgt
      · refine absurd ?_ hd
        have := h k
        rw [Memory.get, if_pos rfl] at this
        rw [this]
        refine Memory.get_of_below c k _ fun p hp => ?_
        rcases List.mem_cons.mp hp with rfl | hp
        · exact hlt
        · exact Nat.lt_trans hlt (hn1.1 p hp)
      · exact heq
      · refine absurd ?_ he
        have := (h l).symm
        rw [Memory.get, if_pos rfl] at this
        rw [this]
        refine Memory.get_of_below c l _ fun p hp => ?_
        rcases List.mem_cons.mp hp with rfl | hp
        · exact hgt
        · exact Nat.lt_trans hgt (hm1.1 p hp)
    subst hkl
    have hde : d = e := by simpa [Memory.get] using h k
    subst hde
    have hmn : m = n := by
      refine Memory.ext_of_wf ⟨hm1.2, fun p hp => hm.2 p (by simp [hp])⟩
        ⟨hn1.2, fun p hp => hn.2 p (by simp [hp])⟩ fun a => ?_
      by_cases ha : a = k
      · subst ha
        rw [Memory.get_of_below c a m hm1.1, Memory.get_of_below c a n hn1.1]
      · have := h a
        rwa [Memory.get, Memory.get, if_neg ha, if_neg ha] at this
    rw [hmn]

/-- What the check of a run says where it finds nothing: the run is empty or lies inside memory. -/
theorem runFault?_eq_none {base len : Nat} :
    runFault? base len = none ↔ len = 0 ∨ base + len ≤ memSize := by
  unfold runFault? memSize
  split <;> simp <;> omega

/-- What the check of a run says where it finds an address: the lowest one above 4095. -/
theorem runFault?_eq_some {base len a : Nat} :
    runFault? base len = some a ↔ len > 0 ∧ base + len > memSize ∧ a = max base 4096 := by
  unfold runFault?
  split
  · simp only [Option.some.injEq, memSize]
    constructor
    · rintro rfl
      exact ⟨by omega, by omega, rfl⟩
    · rintro ⟨-, -, rfl⟩
      rfl
  · simp only [reduceCtorEq, memSize, false_iff]
    omega

end Sys2Proof.Machine
end

