-- ==== Sys2Proof/Laws/Ops.lean ====
section
/-! SUPPORT. One lemma per shared operation that says everything it can do. -/

namespace Sys2Proof.Machine

variable (s : State)

/-! ## Registers -/

theorem State.reg_setReg (x r : Reg) (b : Byte) :
    (s.setReg x b).reg r = if r = x then b else s.reg r := by
  unfold State.reg State.setReg
  rw [Vector.getElem_set]
  by_cases h : r = x
  · subst h
    rw [if_pos rfl, if_pos rfl]
  · rw [if_neg h, if_neg fun e => h (BitVec.eq_of_toNat_eq e.symm)]

@[simp] theorem State.reg_setReg_self (x : Reg) (b : Byte) : (s.setReg x b).reg x = b := by
  rw [State.reg_setReg, if_pos rfl]

theorem State.reg_setReg_ne {x r : Reg} (h : r ≠ x) (b : Byte) :
    (s.setReg x b).reg r = s.reg r := by
  rw [State.reg_setReg, if_neg h]

/-- A result and a flag: VF is the flag whatever `x` is, register `x` the result unless it is VF. -/
theorem State.reg_setRegFlag (x r : Reg) (b : Byte) (p : Bool) :
    (s.setRegFlag x b p).reg r = if r = VF then flagByte p else if r = x then b else s.reg r := by
  unfold State.setRegFlag
  rw [State.reg_setReg, State.reg_setReg]

@[simp] theorem State.reg_setRegs (v : Vector Byte 16) (r : Reg) :
    (s.setRegs v).reg r = v[r.toNat]'(r.isLt) := rfl

/-- Register files that read the same are the same. -/
theorem State.v_ext {s t : State} (h : ∀ r, t.reg r = s.reg r) : t.v = s.v := by
  refine Vector.ext fun k hk => ?_
  have := h (BitVec.ofNat 4 k)
  have hk' : (BitVec.ofNat 4 k).toNat = k := by simp; omega
  simpa only [State.reg, hk'] using this

/-- The register file `FX65` leaves, read at one register. -/
theorem loadedRegs_get (x r : Reg) :
    (loadedRegs x s)[r.toNat]'(r.isLt) =
      if r.toNat ≤ x.toNat then s.mem.get s.config (baseAddr s + r.toNat) else s.reg r := by
  unfold loadedRegs
  rw [Vector.getElem_ofFn]
  rfl

/-- The bytes `FX55` stores: `X + 1` of them, byte `r` register `r`. -/
theorem regRun_length (x : Reg) : (regRun x s).length = x.toNat + 1 := by
  have := x.isLt
  simp [regRun]
  omega

theorem regRun_get (x r : Reg) (h : r.toNat < (regRun x s).length) :
    (regRun x s)[r.toNat] = s.reg r := by
  simp [regRun, State.reg]

/-! ## Memory -/

theorem State.memRead_eq_some {a : Nat} {b : Byte} :
    s.memRead a = some b ↔ a < memSize ∧ s.mem.get s.config a = b := by
  unfold State.memRead
  split <;> simp [*]

theorem State.memRead_of_ge {a : Nat} (h : memSize ≤ a) : s.memRead a = none := by
  unfold State.memRead
  rw [if_neg (by omega)]

theorem State.memRead_of_lt {a : Nat} (h : a < memSize) :
    s.memRead a = some (s.mem.get s.config a) := by
  unfold State.memRead
  rw [if_pos h]

/-- What a store does: byte `j` is read back at `a + j`, every other address reads as before. -/
theorem State.memRead_storeRun (hs : s.mem.wf s.config) (a : Nat) (bs : List Byte) (k : Nat) :
    (s.storeRun a bs).memRead k =
      if h : a ≤ k ∧ k - a < bs.length then (if k < memSize then some bs[k - a] else none)
      else s.memRead k := by
  unfold State.memRead
  simp only [State.storeRun_mem, State.storeRun_config]
  rw [Memory.get_setRun s.config k bs a hs.1]
  split <;> split <;> rfl

/-- A store of a run that is empty or lies inside memory keeps the canonical form. -/
theorem State.storeRun_wf (hs : s.mem.wf s.config) {a : Nat} {bs : List Byte}
    (h : bs = [] ∨ a + bs.length ≤ memSize) : (s.storeRun a bs).mem.wf (s.storeRun a bs).config :=
  Memory.setRun_wf s.config bs a hs h

@[simp] theorem State.loadRun_length (a len : Nat) : (s.loadRun a len).length = len := by
  simp [State.loadRun]

/-! ## Call stack -/

/-- What a push does: slot `SP` holds the word and `SP` is one more, where `SP < 16`. -/
theorem State.push?_of_lt (w : Word) (h : s.sp.val < 16) :
    s.push? w = some { s with stack := s.stack.set s.sp.val w h, sp := ⟨s.sp.val + 1, by omega⟩ } := by
  unfold State.push?
  rw [dif_pos h]

theorem State.push?_of_full (w : Word) (h : s.sp.val = 16) : s.push? w = none := by
  unfold State.push?
  rw [dif_neg (by omega)]

/-- What a pop does: `SP` is one less and the word is the one slot `SP` then names, where `SP > 0`. -/
theorem State.pop?_of_pos (h : 0 < s.sp.val) :
    s.pop? = some (s.stack[s.sp.val - 1]'(by omega), { s with sp := ⟨s.sp.val - 1, by omega⟩ }) := by
  unfold State.pop?
  rw [dif_pos h]

theorem State.pop?_of_empty (h : s.sp.val = 0) : s.pop? = none := by
  unfold State.pop?
  rw [dif_neg (by omega)]

/-- The two ways a push goes. -/
theorem State.push?_cases (w : Word) :
    (s.sp.val = 16 ∧ s.push? w = none) ∨
    ∃ h : s.sp.val < 16, s.push? w =
      some { s with stack := s.stack.set s.sp.val w h, sp := ⟨s.sp.val + 1, by omega⟩ } := by
  by_cases h : s.sp.val < 16
  · exact .inr ⟨h, State.push?_of_lt s w h⟩
  · have h16 : s.sp.val = 16 := by omega
    exact .inl ⟨h16, State.push?_of_full s w h16⟩

/-- The two ways a pop goes. -/
theorem State.pop?_cases :
    (s.sp.val = 0 ∧ s.pop? = none) ∨
    ∃ h : 0 < s.sp.val, s.pop? =
      some (s.stack[s.sp.val - 1]'(by omega), { s with sp := ⟨s.sp.val - 1, by omega⟩ }) := by
  by_cases h : 0 < s.sp.val
  · exact .inr ⟨h, State.pop?_of_pos s h⟩
  · have h0 : s.sp.val = 0 := by omega
    exact .inl ⟨h0, State.pop?_of_empty s h0⟩

/-! ## Keys -/

theorem State.keyAt?_of_lt {k : Byte} (h : k.toNat < 16) : s.keyAt? k = some s.key[k.toNat] := by
  unfold State.keyAt?
  rw [dif_pos h]

theorem State.keyAt?_of_ge {k : Byte} (h : 15 < k.toNat) : s.keyAt? k = none := by
  unfold State.keyAt?
  rw [dif_neg (by omega)]

/-- The lowest pressed key: it is pressed and no lower one is. -/
theorem State.lowestKey?_eq_some {k : Nat} :
    s.lowestKey? = some k ↔
      ∃ h : k < 16, s.key[k] = true ∧ ∀ j (hj : j < k), s.key[j]'(by omega) = false := by
  unfold State.lowestKey?
  rw [List.findIdx?_eq_some_iff_getElem]
  simp

theorem State.lowestKey?_eq_none :
    s.lowestKey? = none ↔ ∀ j (h : j < 16), s.key[j] = false := by
  unfold State.lowestKey?
  rw [List.findIdx?_eq_none_iff]
  constructor
  · intro h j hj
    exact h _ (by simp)
  · intro h x hx
    obtain ⟨j, hj, rfl⟩ := List.mem_iff_getElem.mp hx
    simpa using h j (by simpa using hj)

/-! ## Skips and conditions -/

theorem skipIf_true : skipIf true s = s.setPc (s.pc + 2#16) := rfl

theorem skipIf_false : skipIf false s = s := rfl

/-- Raising a fatal condition always answers a next state. -/
theorem raise_eq (c : Fault) (info : Nat) :
    raise c info s = .next (s.latch c info s.insnAddr) := rfl

/-- The address of the instruction, where its word was fetched inside memory. -/
theorem State.insnAddr_advance : s.advance.insnAddr = s.pc := by
  simp [State.insnAddr]

/-! ## The fetch -/

/-- A fetch inside memory: the big-endian word of the two bytes at `PC`. -/
theorem State.fetch_of_lt (h : s.pc.toNat + 1 < memSize) :
    s.fetch = some (wordOfBytes (s.mem.get s.config s.pc.toNat)
      (s.mem.get s.config (s.pc.toNat + 1))) := by
  unfold State.fetch
  rw [State.memRead_of_lt s (by omega), State.memRead_of_lt s h]

theorem State.fetch_of_ge (h : memSize ≤ s.pc.toNat + 1) : s.fetch = none := by
  unfold State.fetch
  rw [State.memRead_of_ge s h]
  cases s.memRead s.pc.toNat <;> rfl

theorem State.fetch_eq_some {w : Word} :
    s.fetch = some w ↔ ∃ hi lo, s.memRead s.pc.toNat = some hi ∧
      s.memRead (s.pc.toNat + 1) = some lo ∧ w = wordOfBytes hi lo := by
  unfold State.fetch
  cases s.memRead s.pc.toNat <;> cases s.memRead (s.pc.toNat + 1) <;> simp [eq_comm]

theorem State.fetch_eq_none : s.fetch = none ↔ memSize ≤ s.pc.toNat + 1 := by
  constructor
  · intro h
    by_contra hc
    rw [State.fetch_of_lt s (by omega)] at h
    simp at h
  · exact State.fetch_of_ge s

end Sys2Proof.Machine
end

