-- ==== Sys2Proof/Laws/Exec.lean ====
section
/-! SUPPORT. What the meaning of an instruction can do to the latch and the report, said once. -/

namespace Sys2Proof.Machine

variable {s t : State}

theorem raise_inv {c : Fault} {info : Nat} (h : raise c info s = .next t) :
    t = s.latch c info s.insnAddr := by
  injection h with h
  exact h.symm

/-- The two ways a meaning goes: it raises a fatal condition, which latches it and changes nothing
else, or it leaves the latch and the report as they were. -/
theorem exec_cases {i : Instr} (h : exec i s = .next t) :
    (∃ c info, t = s.latch c info s.insnAddr) ∨ (t.fault = s.fault ∧ t.outcome = s.outcome) := by
  cases i
  case ret =>
    rw [exec, execRet] at h
    rcases s.pop?_cases with ⟨-, hp⟩ | ⟨_, hp⟩ <;> rw [hp] at h
    · exact .inl ⟨_, _, raise_inv h⟩
    · injection h with h
      exact .inr (h ▸ ⟨rfl, rfl⟩)
  case call nnn =>
    rw [exec, execCall] at h
    rcases s.push?_cases s.pc with ⟨-, hp⟩ | ⟨_, hp⟩ <;> rw [hp] at h
    · exact .inl ⟨_, _, raise_inv h⟩
    · injection h with h
      exact .inr (h ▸ ⟨rfl, rfl⟩)
  case skp x =>
    rw [exec, execSkp] at h
    split at h
    · injection h with h
      exact .inr (h ▸ ⟨skipIf_fault _ _, skipIf_outcome _ _⟩)
    · exact .inl ⟨_, _, raise_inv h⟩
  case sknp x =>
    rw [exec, execSknp] at h
    split at h
    · injection h with h
      exact .inr (h ▸ ⟨skipIf_fault _ _, skipIf_outcome _ _⟩)
    · exact .inl ⟨_, _, raise_inv h⟩
  case ldVxK x =>
    rw [exec, execLdVxK] at h
    split at h <;>
    · injection h with h
      exact .inr (h ▸ ⟨rfl, rfl⟩)
  case drw x y n =>
    rw [exec, execDrw] at h
    split at h
    · exact .inl ⟨_, _, raise_inv h⟩
    · injection h with h
      exact .inr (h ▸ ⟨rfl, rfl⟩)
  case ldB x =>
    rw [exec, execLdB] at h
    split at h
    · exact .inl ⟨_, _, raise_inv h⟩
    · injection h with h
      exact .inr (h ▸ ⟨rfl, rfl⟩)
  case stRegs x =>
    rw [exec, execStRegs] at h
    split at h
    · exact .inl ⟨_, _, raise_inv h⟩
    · injection h with h
      exact .inr (h ▸ ⟨incIndex_fault _ _, incIndex_outcome _ _⟩)
  case ldRegs x =>
    rw [exec, execLdRegs] at h
    split at h
    · exact .inl ⟨_, _, raise_inv h⟩
    · injection h with h
      exact .inr (h ▸ ⟨incIndex_fault _ _, incIndex_outcome _ _⟩)
  all_goals
    injection h with h
    first
    | exact .inr (h ▸ ⟨rfl, rfl⟩)
    | exact .inr (h ▸ ⟨skipIf_fault _ _, skipIf_outcome _ _⟩)

end Sys2Proof.Machine
end

