-- ==== Sys2Proof/Laws/PerInstr.lean ====
section
/-! SUPPORT. Statements about every instruction, one lemma per constructor. The family `EncodeRow`:
the word of an instruction is selected by its own row of the opcode table (`30_encoding.md` R53,
R54). -/

namespace Sys2Proof

theorem mask_nnn (n : BitVec 4) (nnn : Addr12) :
    (n ++ nnn : Word) &&& 0xF000#16 = n ++ 0x000#12 := by
  refine (BitVec.and_append (x₁ := n) (x₂ := 0xF#4) (y₁ := nnn) (y₂ := 0x000#12)).trans ?_
  rw [show (0xF#4) = BitVec.allOnes 4 from rfl, BitVec.and_allOnes, BitVec.and_zero]

theorem mask_xnn (n x : BitVec 4) (nn : Byte) :
    (n ++ x ++ nn : Word) &&& 0xF000#16 = n ++ 0x0#4 ++ 0x00#8 := by
  refine (BitVec.and_append (x₁ := n ++ x) (x₂ := 0xF0#8) (y₁ := nn) (y₂ := 0x00#8)).trans ?_
  rw [show (0xF0#8) = BitVec.allOnes 4 ++ 0x0#4 from rfl, BitVec.and_append, BitVec.and_allOnes,
    BitVec.and_zero, BitVec.and_zero]

theorem mask_x00 (n x : BitVec 4) (nn : Byte) :
    (n ++ x ++ nn : Word) &&& 0xF0FF#16 = n ++ 0x0#4 ++ nn := by
  refine (BitVec.and_append (x₁ := n ++ x) (x₂ := 0xF0#8) (y₁ := nn) (y₂ := 0xFF#8)).trans ?_
  rw [show (0xF0#8) = BitVec.allOnes 4 ++ 0x0#4 from rfl, BitVec.and_append, BitVec.and_allOnes,
    BitVec.and_zero, show (0xFF#8) = BitVec.allOnes 8 from rfl, BitVec.and_allOnes]

theorem mask_xy0 (n x y m : BitVec 4) :
    (n ++ x ++ y ++ m : Word) &&& 0xF00F#16 = n ++ 0x0#4 ++ 0x0#4 ++ m := by
  refine (BitVec.and_append (x₁ := n ++ x ++ y) (x₂ := 0xF00#12) (y₁ := m) (y₂ := 0xF#4)).trans ?_
  rw [show (0xF00#12) = BitVec.allOnes 4 ++ 0x0#4 ++ 0x0#4 from rfl, BitVec.and_append,
    BitVec.and_append, BitVec.and_allOnes, BitVec.and_zero, BitVec.and_zero,
    show (0xF#4) = BitVec.allOnes 4 from rfl, BitVec.and_allOnes]

theorem mask_xyn (n x y m : BitVec 4) :
    (n ++ x ++ y ++ m : Word) &&& 0xF000#16 = n ++ 0x0#4 ++ 0x0#4 ++ 0x0#4 := by
  refine (BitVec.and_append (x₁ := n ++ x ++ y) (x₂ := 0xF00#12) (y₁ := m) (y₂ := 0x0#4)).trans ?_
  rw [show (0xF00#12) = BitVec.allOnes 4 ++ 0x0#4 ++ 0x0#4 from rfl, BitVec.and_append,
    BitVec.and_append, BitVec.and_allOnes, BitVec.and_zero, BitVec.and_zero, BitVec.and_zero]

/-- The opcode table has a row of the instruction's Id that selects the instruction's word. -/
def Laws.EncodeRow.Statement (i : Instr) : Prop :=
  ∃ r ∈ opcodeTable, r.mnemonic = i.mnemonic ∧ r.selects (encode i) = true

namespace Laws.EncodeRow

theorem cls : Statement .cls :=
  ⟨⟨"CLS", 0xFFFF, 0x00E0⟩, by simp [opcodeTable, opcodeTableLow], rfl, by decide⟩

theorem ret : Statement .ret :=
  ⟨⟨"RET", 0xFFFF, 0x00EE⟩, by simp [opcodeTable, opcodeTableLow], rfl, by decide⟩

theorem jp (nnn : Addr12) : Statement (.jp nnn) :=
  ⟨⟨"JP", 0xF000, 0x1000⟩, by simp [opcodeTable, opcodeTableLow], rfl, decide_eq_true (mask_nnn _ nnn)⟩

theorem call (nnn : Addr12) : Statement (.call nnn) :=
  ⟨⟨"CALL", 0xF000, 0x2000⟩, by simp [opcodeTable, opcodeTableLow], rfl, decide_eq_true (mask_nnn _ nnn)⟩

theorem seImm (x : Reg) (nn : Byte) : Statement (.seImm x nn) :=
  ⟨⟨"SE_IMM", 0xF000, 0x3000⟩, by simp [opcodeTable, opcodeTableLow], rfl, decide_eq_true (mask_xnn _ x nn)⟩

theorem sneImm (x : Reg) (nn : Byte) : Statement (.sneImm x nn) :=
  ⟨⟨"SNE_IMM", 0xF000, 0x4000⟩, by simp [opcodeTable, opcodeTableLow], rfl, decide_eq_true (mask_xnn _ x nn)⟩

theorem seReg (x y : Reg) : Statement (.seReg x y) :=
  ⟨⟨"SE_REG", 0xF00F, 0x5000⟩, by simp [opcodeTable, opcodeTableLow], rfl, decide_eq_true (mask_xy0 _ x y _)⟩

theorem ldImm (x : Reg) (nn : Byte) : Statement (.ldImm x nn) :=
  ⟨⟨"LD_IMM", 0xF000, 0x6000⟩, by simp [opcodeTable, opcodeTableLow], rfl, decide_eq_true (mask_xnn _ x nn)⟩

theorem addImm (x : Reg) (nn : Byte) : Statement (.addImm x nn) :=
  ⟨⟨"ADD_IMM", 0xF000, 0x7000⟩, by simp [opcodeTable, opcodeTableLow], rfl, decide_eq_true (mask_xnn _ x nn)⟩

theorem ldReg (x y : Reg) : Statement (.ldReg x y) :=
  ⟨⟨"LD_REG", 0xF00F, 0x8000⟩, by simp [opcodeTable, opcodeTableLow], rfl, decide_eq_true (mask_xy0 _ x y _)⟩

theorem orReg (x y : Reg) : Statement (.orReg x y) :=
  ⟨⟨"OR", 0xF00F, 0x8001⟩, by simp [opcodeTable, opcodeTableLow], rfl, decide_eq_true (mask_xy0 _ x y _)⟩

theorem andReg (x y : Reg) : Statement (.andReg x y) :=
  ⟨⟨"AND", 0xF00F, 0x8002⟩, by simp [opcodeTable, opcodeTableLow], rfl, decide_eq_true (mask_xy0 _ x y _)⟩

theorem xorReg (x y : Reg) : Statement (.xorReg x y) :=
  ⟨⟨"XOR", 0xF00F, 0x8003⟩, by simp [opcodeTable, opcodeTableLow], rfl, decide_eq_true (mask_xy0 _ x y _)⟩

theorem addReg (x y : Reg) : Statement (.addReg x y) :=
  ⟨⟨"ADD_REG", 0xF00F, 0x8004⟩, by simp [opcodeTable, opcodeTableLow], rfl, decide_eq_true (mask_xy0 _ x y _)⟩

theorem sub (x y : Reg) : Statement (.sub x y) :=
  ⟨⟨"SUB", 0xF00F, 0x8005⟩, by simp [opcodeTable, opcodeTableLow], rfl, decide_eq_true (mask_xy0 _ x y _)⟩

theorem shr (x y : Reg) : Statement (.shr x y) :=
  ⟨⟨"SHR", 0xF00F, 0x8006⟩, by simp [opcodeTable, opcodeTableLow], rfl, decide_eq_true (mask_xy0 _ x y _)⟩

theorem subn (x y : Reg) : Statement (.subn x y) :=
  ⟨⟨"SUBN", 0xF00F, 0x8007⟩, by simp [opcodeTable, opcodeTableLow], rfl, decide_eq_true (mask_xy0 _ x y _)⟩

theorem shl (x y : Reg) : Statement (.shl x y) :=
  ⟨⟨"SHL", 0xF00F, 0x800E⟩, by simp [opcodeTable, opcodeTableLow], rfl, decide_eq_true (mask_xy0 _ x y _)⟩

theorem sneReg (x y : Reg) : Statement (.sneReg x y) :=
  ⟨⟨"SNE_REG", 0xF00F, 0x9000⟩, by simp [opcodeTable, opcodeTableLow], rfl, decide_eq_true (mask_xy0 _ x y _)⟩

theorem ldI (nnn : Addr12) : Statement (.ldI nnn) :=
  ⟨⟨"LD_I", 0xF000, 0xA000⟩, by simp [opcodeTable, opcodeTableHigh], rfl, decide_eq_true (mask_nnn _ nnn)⟩

theorem jpV0 (nnn : Addr12) : Statement (.jpV0 nnn) :=
  ⟨⟨"JP_V0", 0xF000, 0xB000⟩, by simp [opcodeTable, opcodeTableHigh], rfl, decide_eq_true (mask_nnn _ nnn)⟩

theorem rnd (x : Reg) (nn : Byte) : Statement (.rnd x nn) :=
  ⟨⟨"RND", 0xF000, 0xC000⟩, by simp [opcodeTable, opcodeTableHigh], rfl, decide_eq_true (mask_xnn _ x nn)⟩

theorem drw (x y : Reg) (n : Nibble) : Statement (.drw x y n) :=
  ⟨⟨"DRW", 0xF000, 0xD000⟩, by simp [opcodeTable, opcodeTableHigh], rfl, decide_eq_true (mask_xyn _ x y n)⟩

theorem skp (x : Reg) : Statement (.skp x) :=
  ⟨⟨"SKP", 0xF0FF, 0xE09E⟩, by simp [opcodeTable, opcodeTableHigh], rfl, decide_eq_true (mask_x00 _ x _)⟩

theorem sknp (x : Reg) : Statement (.sknp x) :=
  ⟨⟨"SKNP", 0xF0FF, 0xE0A1⟩, by simp [opcodeTable, opcodeTableHigh], rfl, decide_eq_true (mask_x00 _ x _)⟩

theorem ldVxDt (x : Reg) : Statement (.ldVxDt x) :=
  ⟨⟨"LD_VX_DT", 0xF0FF, 0xF007⟩, by simp [opcodeTable, opcodeTableHigh], rfl, decide_eq_true (mask_x00 _ x _)⟩

theorem ldVxK (x : Reg) : Statement (.ldVxK x) :=
  ⟨⟨"LD_VX_K", 0xF0FF, 0xF00A⟩, by simp [opcodeTable, opcodeTableHigh], rfl, decide_eq_true (mask_x00 _ x _)⟩

theorem ldDtVx (x : Reg) : Statement (.ldDtVx x) :=
  ⟨⟨"LD_DT_VX", 0xF0FF, 0xF015⟩, by simp [opcodeTable, opcodeTableHigh], rfl, decide_eq_true (mask_x00 _ x _)⟩

theorem ldStVx (x : Reg) : Statement (.ldStVx x) :=
  ⟨⟨"LD_ST_VX", 0xF0FF, 0xF018⟩, by simp [opcodeTable, opcodeTableHigh], rfl, decide_eq_true (mask_x00 _ x _)⟩

theorem addI (x : Reg) : Statement (.addI x) :=
  ⟨⟨"ADD_I", 0xF0FF, 0xF01E⟩, by simp [opcodeTable, opcodeTableHigh], rfl, decide_eq_true (mask_x00 _ x _)⟩

theorem ldF (x : Reg) : Statement (.ldF x) :=
  ⟨⟨"LD_F", 0xF0FF, 0xF029⟩, by simp [opcodeTable, opcodeTableHigh], rfl, decide_eq_true (mask_x00 _ x _)⟩

theorem ldB (x : Reg) : Statement (.ldB x) :=
  ⟨⟨"LD_B", 0xF0FF, 0xF033⟩, by simp [opcodeTable, opcodeTableHigh], rfl, decide_eq_true (mask_x00 _ x _)⟩

theorem stRegs (x : Reg) : Statement (.stRegs x) :=
  ⟨⟨"ST_REGS", 0xF0FF, 0xF055⟩, by simp [opcodeTable, opcodeTableHigh], rfl, decide_eq_true (mask_x00 _ x _)⟩

theorem ldRegs (x : Reg) : Statement (.ldRegs x) :=
  ⟨⟨"LD_REGS", 0xF0FF, 0xF065⟩, by simp [opcodeTable, opcodeTableHigh], rfl, decide_eq_true (mask_x00 _ x _)⟩

end Laws.EncodeRow

end Sys2Proof
end

