-- ==== Sys2Proof/Laws/Step.lean ====
section
/-! SUPPORT. What a `Step` can do, said once. -/

namespace Sys2Proof.Machine

variable {s t : State}

theorem step_of_fault {c : Fault} (h : s.fault = some c) : step s = .next (s.reportHalted c) := by
  unfold step
  rw [h]

theorem step_of_fetch_none (h : s.fault = none) (hf : s.fetch = none) :
    step s = .next s.fetchFault := by
  unfold step
  rw [h, hf]

theorem step_of_unmatched {w : Word} {e : DecodeError} (h : s.fault = none)
    (hf : s.fetch = some w) (hd : decode w = .error e) :
    step s = .next (s.reportUnimplemented w) := by
  unfold step
  simp only [h, hf, hd]

theorem step_of_instr {w : Word} {i : Instr} (h : s.fault = none) (hf : s.fetch = some w)
    (hd : decode w = .ok i) : step s = exec i s.advance := by
  unfold step
  simp only [h, hf, hd]

/-- The four ways a `Step` goes (`40_fetch_dispatch.md` R65): halted, a fetch outside memory, an
unmatched word, an instruction. -/
theorem step_cases (h : step s = .next t) :
    (∃ c, s.fault = some c ∧ t = s.reportHalted c) ∨
    (s.fault = none ∧ s.fetch = none ∧ t = s.fetchFault) ∨
    (∃ w e, s.fault = none ∧ s.fetch = some w ∧ decode w = .error e ∧
      t = s.reportUnimplemented w) ∨
    (∃ w i, s.fault = none ∧ s.fetch = some w ∧ decode w = .ok i ∧ exec i s.advance = .next t) := by
  cases hs : s.fault with
  | some c =>
    rw [step_of_fault hs] at h
    injection h with h
    exact .inl ⟨c, rfl, h.symm⟩
  | none =>
    cases hf : s.fetch with
    | none =>
      rw [step_of_fetch_none hs hf] at h
      injection h with h
      exact .inr (.inl ⟨rfl, rfl, h.symm⟩)
    | some w =>
      cases hd : decode w with
      | error e =>
        rw [step_of_unmatched hs hf hd] at h
        injection h with h
        exact .inr (.inr (.inl ⟨w, e, rfl, rfl, hd, h.symm⟩))
      | ok i =>
        rw [step_of_instr hs hf hd] at h
        exact .inr (.inr (.inr ⟨w, i, rfl, rfl, hd, h⟩))

end Sys2Proof.Machine
end

