-- ==== Sys2Proof/Laws/Transactions.lean ====
section
/-! SUPPORT. What each transaction of the host does, said once. -/

namespace Sys2Proof.Machine

variable (s : State)

/-- A tick takes a timer from `d` to `d - 1`, and from 0 to 0. -/
theorem tickDown_toNat (b : Byte) : (tickDown b).toNat = b.toNat - 1 := by
  unfold tickDown
  split
  · rename_i h
    rw [h]
    rfl
  · rename_i h
    have hb := b.isLt
    have h0 : b.toNat ≠ 0 := fun e => h (BitVec.eq_of_toNat_eq e)
    rw [BitVec.toNat_sub]
    simp only [BitVec.toNat_ofNat]
    omega

theorem State.hostLoad?_of_le {bytes : Program} (h : bytes.length ≤ progMax) :
    s.hostLoad? bytes = some (s.storeRun progBase bytes) := by
  have hw : bytes.wellFormed = true := decide_eq_true h
  unfold State.hostLoad?
  rw [if_pos hw]

theorem State.hostLoad?_of_gt {bytes : Program} (h : progMax < bytes.length) :
    s.hostLoad? bytes = none := by
  have hw : ¬ bytes.wellFormed = true := fun e => by
    have := of_decide_eq_true e
    omega
  unfold State.hostLoad?
  rw [if_neg hw]

/-- What a `Load` answers. -/
theorem transact_load (bytes : Program) :
    transact (.load bytes) s = .next
      (if bytes.length ≤ progMax then (.loaded, s.storeRun progBase bytes)
        else (.capacityError bytes.length, s)) := by
  unfold transact
  by_cases h : bytes.length ≤ progMax
  · simp only [State.hostLoad?_of_le s h, if_pos h]
  · simp only [State.hostLoad?_of_gt s (by omega : progMax < bytes.length), if_neg h]

/-- A `Step` as a transaction answers what the `Step` reports. -/
theorem transact_step {t : State} (h : step s = .next t) :
    transact .step s = .next (.stepped t.outcome, t) := by
  unfold transact
  simp only [h]

theorem transact_step_inv {t : State} {r : Response} (h : transact .step s = .next (r, t)) :
    step s = .next t ∧ r = .stepped t.outcome := by
  unfold transact at h
  cases hs : step s with
  | next u =>
    simp only [hs] at h
    injection h with h
    injection h with h1 h2
    subst h2
    exact ⟨rfl, h1.symm⟩
  | fault e => simp [hs] at h
  | refused e => simp [hs] at h

/-- A run of transactions, its first one apart. -/
theorem runTransactions_cons {x : Transaction} {xs : List Transaction} {t u : State} {r : Response}
    {rs : List Response} (h : transact x s = .next (r, t))
    (hs : runTransactions xs t = .next (rs, u)) :
    runTransactions (x :: xs) s = .next (r :: rs, u) := by
  simp only [runTransactions, h, hs]

theorem runTransactions_cons_inv {x : Transaction} {xs : List Transaction} {u : State}
    {qs : List Response} (h : runTransactions (x :: xs) s = .next (qs, u)) :
    ∃ r rs t, transact x s = .next (r, t) ∧ runTransactions xs t = .next (rs, u) ∧
      qs = r :: rs := by
  unfold runTransactions at h
  cases hx : transact x s with
  | next p =>
    obtain ⟨r, t⟩ := p
    simp only [hx] at h
    cases hr : runTransactions xs t with
    | next q =>
      obtain ⟨rs, v⟩ := q
      simp only [hr] at h
      injection h with h
      injection h with h1 h2
      subst h2
      exact ⟨r, rs, t, rfl, hr, h1.symm⟩
    | fault e => simp [hr] at h
    | refused e => simp [hr] at h
  | fault e => simp [hx] at h
  | refused e => simp [hx] at h

end Sys2Proof.Machine
end

