-- ==== Sys2Proof/Tests/Slice0.lean ====
section
/-! SUPPORT. Named tests. Expected results come from `spec/95_test_vectors.md` (a test names its
vector), words from the encodings of `30_encoding.md` R54. The last part shows, for every obligation
with hypotheses, a concrete state and operands that meet them. -/

namespace Sys2Proof.Tests

open Sys2Proof.Machine

/-- The reset state with a word placed at 0x200. -/
def at200 (w : Nat) : State := State.reset.withFetchWord 16 w

/-- The `Step` answers a next state and `p` holds of it. -/
def after (s : State) (p : State → Bool) : Bool :=
  match step s with
  | .next t => p t
  | _ => false

/-- The state with `SHIFT_SRC_VY` true. -/
def srcVY (s : State) : State := { s with config := { s.config with shiftSrcVY := true } }

/-- The state with `INDEX_INC` true. -/
def incOn (s : State) : State := { s with config := { s.config with indexInc := true } }

/-- The registers of `s` as `V[0..15]`. -/
def withRegs (s : State) (v : Vector Byte 16) : State := s.setRegs v

/-! ## Well-formedness -/

/-- A program of 3585 bytes is one byte too long (L3). -/
theorem test_wellFormed_refuses_long_program :
    Program.wellFormed (List.replicate 3585 0xAB#8) = false := by
  unfold Program.wellFormed
  rw [List.length_replicate]
  decide

/-- A program of 3584 bytes is accepted (L2). -/
theorem test_wellFormed_accepts_longest_program :
    Program.wellFormed (List.replicate 3584 0xAB#8) = true := by
  unfold Program.wellFormed
  rw [List.length_replicate]
  decide

/-! ## Decoding: one word of every row, written out bit by bit -/

theorem test_decode_cls : decodeTableWord 16 0b0000000011100000 = some (.cls) := by decide
theorem test_decode_ret : decodeTableWord 16 0b0000000011101110 = some (.ret) := by decide
theorem test_decode_jp : decodeTableWord 16 0b0001101010111100 = some (.jp 0xABC) := by decide
theorem test_decode_call : decodeTableWord 16 0b0010111111111110 = some (.call 0xFFE) := by decide
theorem test_decode_seImm : decodeTableWord 16 0b0011000101000010 = some (.seImm 0x1 0x42) := by decide
theorem test_decode_sneImm : decodeTableWord 16 0b0100000101000011 = some (.sneImm 0x1 0x43) := by decide
theorem test_decode_seReg : decodeTableWord 16 0b0101000100100000 = some (.seReg 0x1 0x2) := by decide
theorem test_decode_ldImm : decodeTableWord 16 0b0110101001111111 = some (.ldImm 0xA 0x7F) := by decide
theorem test_decode_addImm : decodeTableWord 16 0b0111001100000001 = some (.addImm 0x3 0x01) := by decide
theorem test_decode_ldReg : decodeTableWord 16 0b1000000100100000 = some (.ldReg 0x1 0x2) := by decide
theorem test_decode_orReg : decodeTableWord 16 0b1000000100100001 = some (.orReg 0x1 0x2) := by decide
theorem test_decode_andReg : decodeTableWord 16 0b1000000100100010 = some (.andReg 0x1 0x2) := by decide
theorem test_decode_xorReg : decodeTableWord 16 0b1000000100100011 = some (.xorReg 0x1 0x2) := by decide
theorem test_decode_addReg : decodeTableWord 16 0b1000000000010100 = some (.addReg 0x0 0x1) := by decide
theorem test_decode_sub : decodeTableWord 16 0b1000001000110101 = some (.sub 0x2 0x3) := by decide
theorem test_decode_shr : decodeTableWord 16 0b1000000100100110 = some (.shr 0x1 0x2) := by decide
theorem test_decode_subn : decodeTableWord 16 0b1000000100100111 = some (.subn 0x1 0x2) := by decide
theorem test_decode_shl : decodeTableWord 16 0b1000000100101110 = some (.shl 0x1 0x2) := by decide
theorem test_decode_sneReg : decodeTableWord 16 0b1001000100100000 = some (.sneReg 0x1 0x2) := by decide
theorem test_decode_ldI : decodeTableWord 16 0b1010000100100011 = some (.ldI 0x123) := by decide
theorem test_decode_jpV0 : decodeTableWord 16 0b1011001000000100 = some (.jpV0 0x204) := by decide
theorem test_decode_rnd : decodeTableWord 16 0b1100001000001111 = some (.rnd 0x2 0x0F) := by decide
theorem test_decode_drw : decodeTableWord 16 0b1101000000010010 = some (.drw 0x0 0x1 0x2) := by decide
theorem test_decode_skp : decodeTableWord 16 0b1110000110011110 = some (.skp 0x1) := by decide
theorem test_decode_sknp : decodeTableWord 16 0b1110000110100001 = some (.sknp 0x1) := by decide
theorem test_decode_ldVxDt : decodeTableWord 16 0b1111000100000111 = some (.ldVxDt 0x1) := by decide
theorem test_decode_ldVxK : decodeTableWord 16 0b1111001000001010 = some (.ldVxK 0x2) := by decide
theorem test_decode_ldDtVx : decodeTableWord 16 0b1111000100010101 = some (.ldDtVx 0x1) := by decide
theorem test_decode_ldStVx : decodeTableWord 16 0b1111000100011000 = some (.ldStVx 0x1) := by decide
theorem test_decode_addI : decodeTableWord 16 0b1111010100011110 = some (.addI 0x5) := by decide
theorem test_decode_ldF : decodeTableWord 16 0b1111011000101001 = some (.ldF 0x6) := by decide
theorem test_decode_ldB : decodeTableWord 16 0b1111000100110011 = some (.ldB 0x1) := by decide
theorem test_decode_stRegs : decodeTableWord 16 0b1111001101010101 = some (.stRegs 0x3) := by decide
theorem test_decode_ldRegs : decodeTableWord 16 0b1111001101100101 = some (.ldRegs 0x3) := by decide

/-- The words of F4 and F5 match no row. -/
theorem test_decode_unmatched :
    [0x5121, 0x8128, 0x812F, 0x9121, 0xE19F, 0xE0A0, 0xF100, 0xF154, 0xFF66, 0x00E1, 0x00FE, 0x0000,
      0x0FFF].all (fun w => (decodeTableWord 16 w).isNone) = true := by decide

/-- `withFetchWord` after reset is run by the very next step (F1). -/
theorem test_withFetchWord :
    after (State.reset.withFetchWord 16 0x602A) (fun t => t.reg 0x0 == 0x2A && t.pc == 0x202) = true := by
  decide

/-! ## Fetch and dispatch -/

/-- F4. -/
theorem test_fetch_unmatched : after (at200 0x5121)
    (fun t => t.pc == 0x202 && t.outcome == .unimplemented 0x5121 && t.fault == none) = true := by decide

/-- F6: an odd PC is executed. -/
theorem test_fetch_odd : after (({ State.reset with pc := 0x201 }).storeRun 0x201 [0x12, 0x00])
    (fun t => t.pc == 0x200 && t.outcome == .ok) = true := by decide

/-- F7. -/
theorem test_fetch_last_word : after (({ State.reset with pc := 0xFFE }).storeRun 0xFFE [0x00, 0xE0])
    (fun t => t.pc == 0x1000 && t.outcome == .ok) = true := by decide

/-- F9. -/
theorem test_fetch_fault : after ({ State.reset with pc := 0xFFF })
    (fun t => t.pc == 0xFFF && t.outcome == .fatal .addressError 0x1000 0xFFF && t.fault == some .addressError) = true := by decide

/-- F10. -/
theorem test_fetch_fault_high : after ({ State.reset with pc := 0x10FE })
    (fun t => t.pc == 0x10FE && t.outcome == .fatal .addressError 0x10FE 0x10FE && t.fault == some .addressError) = true := by decide

/-- F11. -/
theorem test_halted : after ({ at200 0x00E0 with fault := some .stackOverflow })
    (fun t => t.pc == 0x200 && t.outcome == .halted .stackOverflow && t.fault == some .stackOverflow) = true := by decide

/-! ## Control flow -/

/-- C1. -/
theorem test_jp : after (at200 0x1ABC)
    (fun t => t.pc == 0xABC) = true := by decide

/-- C6. -/
theorem test_call_last_level : after (({ State.reset with pc := 0x400, sp := 15 }).storeRun 0x400 [0x2F, 0xFE])
    (fun t => t.pc == 0xFFE && t.sp == 16 && t.stack[15]? == some 0x402) = true := by decide

/-- C7. -/
theorem test_call_overflow : after ({ at200 0x2300 with sp := 16, stack := State.reset.stack.set 15 0x1234 })
    (fun t => t.pc == 0x202 && t.sp == 16 && t.stack[15]? == some 0x1234 && t.outcome == .fatal .stackOverflow 0x200 0x200 && t.fault == some .stackOverflow) = true := by decide

/-- C9. -/
theorem test_ret : after (({ State.reset with pc := 0x300, sp := 16, stack := State.reset.stack.set 15 0xABC }).storeRun 0x300
    [0x00, 0xEE])
    (fun t => t.pc == 0xABC && t.sp == 15) = true := by decide

/-- C10: the dead slot is not used. -/
theorem test_ret_underflow : after (({ State.reset with pc := 0x300, stack := State.reset.stack.set 0 0xABC }).storeRun 0x300
    [0x00, 0xEE])
    (fun t => t.pc == 0x302 && t.sp == 0 && t.outcome == .fatal .stackUnderflow 0x300 0x300 && t.fault == some .stackUnderflow) = true := by decide

/-- C11. -/
theorem test_seImm_equal : after ((at200 0x3142).setReg 0x1 0x42)
    (fun t => t.pc == 0x204) = true := by decide

/-- C12. -/
theorem test_seImm_differs : after ((at200 0x3143).setReg 0x1 0x42)
    (fun t => t.pc == 0x202) = true := by decide

/-- C13. -/
theorem test_sneImm_equal : after ((at200 0x4142).setReg 0x1 0x42)
    (fun t => t.pc == 0x202) = true := by decide

/-- C14. -/
theorem test_sneImm_differs : after ((at200 0x4143).setReg 0x1 0x42)
    (fun t => t.pc == 0x204) = true := by decide

/-- C16. -/
theorem test_seReg_equal : after (((at200 0x5120).setReg 0x1 0x07).setReg 0x2 0x07)
    (fun t => t.pc == 0x204) = true := by decide

/-- C17. -/
theorem test_seReg_differs : after (((at200 0x5120).setReg 0x1 0x07).setReg 0x2 0x08)
    (fun t => t.pc == 0x202) = true := by decide

/-- C19. -/
theorem test_sneReg_equal : after (((at200 0x9120).setReg 0x1 0x07).setReg 0x2 0x07)
    (fun t => t.pc == 0x202) = true := by decide

/-- C20. -/
theorem test_sneReg_differs : after (((at200 0x9120).setReg 0x1 0x07).setReg 0x2 0x08)
    (fun t => t.pc == 0x204) = true := by decide

/-- C24: no reduction modulo 4096. -/
theorem test_jpV0 : after ((at200 0xBFFF).setReg 0x0 0xFF)
    (fun t => t.pc == 0x10FE) = true := by decide

/-! ## Load and arithmetic -/

/-- A1. -/
theorem test_ldImm : after (at200 0x6A7F)
    (fun t => t.reg 0xA == 0x7F && t.pc == 0x202) = true := by decide

/-- A2. -/
theorem test_ldImm_vf : after (at200 0x6F01)
    (fun t => t.reg 0xF == 0x01 && t.pc == 0x202) = true := by decide

/-- A3: no flag. -/
theorem test_addImm_wraps : after (((at200 0x7301).setReg 0x3 0xFF).setReg 0xF 0x01)
    (fun t => t.reg 0x3 == 0x00 && t.reg 0xF == 0x01 && t.pc == 0x202) = true := by decide

/-- A4: the sum, not a flag. -/
theorem test_addImm_vf : after ((at200 0x7F01).setReg 0xF 0xFF)
    (fun t => t.reg 0xF == 0x00 && t.pc == 0x202) = true := by decide

/-- A6. -/
theorem test_ldReg : after (((at200 0x8120).setReg 0x2 0x5A).setReg 0xF 0x01)
    (fun t => t.reg 0x1 == 0x5A && t.reg 0xF == 0x01 && t.pc == 0x202) = true := by decide

/-- A8. -/
theorem test_ldReg_from_vf : after ((at200 0x81F0).setReg 0xF 0x09)
    (fun t => t.reg 0x1 == 0x09 && t.pc == 0x202) = true := by decide

/-- A9: VF is left. -/
theorem test_or : after ((((at200 0x8121).setReg 0x1 0xF0).setReg 0x2 0x0F).setReg 0xF 0x01)
    (fun t => t.reg 0x1 == 0xFF && t.reg 0xF == 0x01 && t.pc == 0x202) = true := by decide

/-- A13: OR into VF, the result stays. -/
theorem test_or_vf : after (((at200 0x8F21).setReg 0xF 0x01).setReg 0x2 0x80)
    (fun t => t.reg 0xF == 0x81 && t.pc == 0x202) = true := by decide

/-- A10. -/
theorem test_and : after ((((at200 0x8122).setReg 0x1 0xF0).setReg 0x2 0x3C).setReg 0xF 0x01)
    (fun t => t.reg 0x1 == 0x30 && t.reg 0xF == 0x01 && t.pc == 0x202) = true := by decide

/-- A11. -/
theorem test_xor : after ((((at200 0x8123).setReg 0x1 0xF0).setReg 0x2 0x3C).setReg 0xF 0x01)
    (fun t => t.reg 0x1 == 0xCC && t.reg 0xF == 0x01 && t.pc == 0x202) = true := by decide

/-- A12. -/
theorem test_xor_self : after ((at200 0x8113).setReg 0x1 0xAB)
    (fun t => t.reg 0x1 == 0x00 && t.pc == 0x202) = true := by decide

/-- A14, the source's example S1. -/
theorem test_addReg : after (((at200 0x8014).setReg 0x0 0xFF).setReg 0x1 0x01)
    (fun t => t.reg 0x0 == 0x00 && t.reg 0xF == 0x01 && t.pc == 0x202) = true := by decide

/-- A21: the flag is written last. -/
theorem test_addReg_vf : after (((at200 0x8F14).setReg 0xF 0x01).setReg 0x1 0x02)
    (fun t => t.reg 0xF == 0x00 && t.pc == 0x202) = true := by decide

/-- A24, the source's example S2. -/
theorem test_sub : after ((((at200 0x8235).setReg 0x2 0x05).setReg 0x3 0x09).setReg 0xF 0x01)
    (fun t => t.reg 0x2 == 0xFC && t.reg 0xF == 0x00 && t.pc == 0x202) = true := by decide

/-- A26: equal operands, flag 1. -/
theorem test_sub_equal : after (((at200 0x8235).setReg 0x2 0x07).setReg 0x3 0x07)
    (fun t => t.reg 0x2 == 0x00 && t.reg 0xF == 0x01 && t.pc == 0x202) = true := by decide

/-- A34: VY ignored by default. -/
theorem test_shr : after (((at200 0x8126).setReg 0x1 0x05).setReg 0x2 0xFF)
    (fun t => t.reg 0x1 == 0x02 && t.reg 0xF == 0x01 && t.pc == 0x202) = true := by decide

/-- A40: VY is the source. -/
theorem test_shr_vy : after (((srcVY (at200 0x8126)).setReg 0x1 0x00).setReg 0x2 0x81)
    (fun t => t.reg 0x1 == 0x40 && t.reg 0x2 == 0x81 && t.reg 0xF == 0x01 && t.pc == 0x202) = true := by decide

/-- A46. -/
theorem test_subn : after ((((at200 0x8127).setReg 0x1 0x09).setReg 0x2 0x05).setReg 0xF 0x01)
    (fun t => t.reg 0x1 == 0xFC && t.reg 0xF == 0x00 && t.pc == 0x202) = true := by decide

/-- A49: X = F. -/
theorem test_subn_vf : after (((at200 0x8F17).setReg 0xF 0x05).setReg 0x1 0x09)
    (fun t => t.reg 0xF == 0x01 && t.pc == 0x202) = true := by decide

/-- A52. -/
theorem test_shl : after (((at200 0x812E).setReg 0x1 0x40).setReg 0xF 0x01)
    (fun t => t.reg 0x1 == 0x80 && t.reg 0xF == 0x00 && t.pc == 0x202) = true := by decide

/-- A55: VY is the source. -/
theorem test_shl_vy : after (((srcVY (at200 0x812E)).setReg 0x1 0x00).setReg 0x2 0xC0)
    (fun t => t.reg 0x1 == 0x80 && t.reg 0x2 == 0xC0 && t.reg 0xF == 0x01 && t.pc == 0x202) = true := by decide

/-- A59: mask 00, whatever byte is drawn; one byte is consumed. -/
theorem test_rnd_mask_zero : ∃ t, step ((at200 0xC100).setReg 0x1 0x55) = .next t ∧
    t.reg 0x1 = 0x00 ∧ t.draws = 1 ∧ t.pc = 0x202 := by
  refine ⟨_, step_of_instr (w := 0xC100) (i := .rnd 0x1 0x00) (by decide) (by decide) (by decide), ?_⟩
  refine ⟨?_, rfl, by decide⟩
  rw [State.reg_setReg_self]
  exact BitVec.and_zero

/-- A60: mask FF, the draw itself. -/
theorem test_rnd_mask_full : ∃ t, step (at200 0xC3FF) = .next t ∧
    t.reg 0x3 = Config.randomByte 0 := by
  refine ⟨_, step_of_instr (w := 0xC3FF) (i := .rnd 0x3 0xFF) (by decide) (by decide) (by decide), ?_⟩
  rw [State.reg_setReg_self]
  exact BitVec.and_allOnes

/-! ## Index and memory -/

/-- M2. -/
theorem test_ldI : after (at200 0xAFFF)
    (fun t => t.i == 0x0FFF && t.pc == 0x202) = true := by decide

/-- M5: no flag. -/
theorem test_addI_wraps : after ((({ at200 0xF01E with i := 0xFFF0 }).setReg 0x0 0x20).setReg 0xF 0x01)
    (fun t => t.i == 0x0010 && t.reg 0xF == 0x01) = true := by decide

/-- M6: no fault until I is used as an address. -/
theorem test_addI : after (({ at200 0xF01E with i := 0x0FFF }).setReg 0x0 0x01)
    (fun t => t.i == 0x1000 && t.outcome == .ok) = true := by decide

/-- M12. -/
theorem test_ldF : after ((at200 0xF029).setReg 0x0 0x0F)
    (fun t => t.i == 0x004B) = true := by decide

/-- M14. -/
theorem test_ldF_unmasked : after ((at200 0xF029).setReg 0x0 0xFF)
    (fun t => t.i == 0x04FB) = true := by decide

/-- M20. -/
theorem test_ldB_last_base : after (({ at200 0xF033 with i := 0xFFD }).setReg 0x0 0x63)
    (fun t => t.loadRun 0xFFD 3 == [0x00, 0x09, 0x09] && t.i == 0xFFD) = true := by decide

/-- M21: nothing written. -/
theorem test_ldB_fault : after ((({ at200 0xF033 with i := 0xFFE }).storeRun 0xFFE [0xEE, 0xEE]).setReg 0x0 0x7B)
    (fun t => t.loadRun 0xFFE 2 == [0xEE, 0xEE] && t.pc == 0x202 && t.outcome == .fatal .addressError 0x1000 0x200 && t.fault == some .addressError) = true := by decide

/-- M26: four registers, INDEX_INC. -/
theorem test_stRegs : after (withRegs ((incOn { at200 0xF355 with i := 0x300 }).storeRun 0x304 [0xEE])
    #v[1, 2, 3, 4, 5, 0, 0, 0, 0, 0, 0, 0, 0, 0, 0, 0])
    (fun t => t.loadRun 0x300 5 == [1, 2, 3, 4, 0xEE] && t.i == 0x304) = true := by decide

/-- M30: not one byte stored. -/
theorem test_stRegs_fault : after (withRegs { at200 0xFF55 with i := 0xFF1 }
    #v[0x10, 0x11, 0x12, 0x13, 0x14, 0x15, 0x16, 0x17, 0x18, 0x19, 0x1A, 0x1B, 0x1C, 0x1D, 0x1E, 0x1F])
    (fun t => t.loadRun 0xFF1 15 == List.replicate 15 0 && t.i == 0xFF1 && t.pc == 0x202 && t.outcome == .fatal .addressError 0x1000 0x200 && t.fault == some .addressError) = true := by decide

/-- M35: INDEX_INC, V[4] unchanged. -/
theorem test_ldRegs : after (((incOn { at200 0xF365 with i := 0x300 }).storeRun 0x300 [0x0A, 0x0B, 0x0C, 0x0D, 0x0E]).setReg 0x4 0x99)
    (fun t => t.v.toList.take 5 == [0x0A, 0x0B, 0x0C, 0x0D, 0x99] && t.i == 0x304) = true := by decide

/-- M37: glyph 1 of the font. -/
theorem test_ldRegs_font : after ({ at200 0xF465 with i := 0x0005 })
    (fun t => t.v.toList.take 5 == [0x20, 0x60, 0x20, 0x20, 0x70] && t.i == 0x0005) = true := by decide

/-! ## Display -/

/-- G1, the source's example S3. -/
theorem test_cls : after (({ at200 0x00E0 with fb := ((State.reset.fb.set 0 0x8000000000000000).set 31 1).set 10 0x0020000000000000 }).setReg 0xF 0x07)
    (fun t => t.fb == blankScreen && t.reg 0xF == 0x07) = true := by decide

/-- G4: both coordinates wrap. -/
theorem test_drw_wraps : after (((({ at200 0xD012 with i := 0x300 }).storeRun 0x300 [0xC0, 0x81]).setReg 0x0 0x3E).setReg 0x1 0x1F)
    (fun t => t.fb == (blankScreen.set 31 0x3).set 0 0x0400000000000002 && t.reg 0xF == 0x00) = true := by decide

/-- G19: X = Y, one cell erased. -/
theorem test_drw_collision : after ((({ at200 0xD112 with i := 0x300, fb := blankScreen.set 1 0x8000000000000000 }).storeRun 0x300 [0x80, 0x80]))
    (fun t => t.fb == blankScreen.set 0 0x8000000000000000 && t.reg 0xF == 0x01) = true := by decide

/-! ## Keys and timers -/

/-- K5. -/
theorem test_skp : after (((at200 0xE19E).setReg 0x1 0x0F).setKey 0xF true)
    (fun t => t.pc == 0x204) = true := by decide

/-- K6: not masked to key 0. -/
theorem test_skp_fault : after (((at200 0xE19E).setReg 0x1 0x10).setKey 0x0 true)
    (fun t => t.pc == 0x202 && t.outcome == .fatal .addressError 0x10 0x200 && t.fault == some .addressError) = true := by decide

/-- K3. -/
theorem test_sknp_pressed : after (((at200 0xE1A1).setReg 0x1 0x05).setKey 0x5 true)
    (fun t => t.pc == 0x202) = true := by decide

/-- K4. -/
theorem test_sknp_released : after ((at200 0xE1A1).setReg 0x1 0x05)
    (fun t => t.pc == 0x204) = true := by decide

/-- K9, the source's example S7. -/
theorem test_ldVxK_waits : after ((at200 0xF20A).setReg 0x2 0x99)
    (fun t => t.pc == 0x200 && t.reg 0x2 == 0x99 && t.outcome == .ok) = true := by decide

/-- K10. -/
theorem test_ldVxK_lowest : after ((((at200 0xF20A).setReg 0x2 0x99).setKey 0x7 true).setKey 0x3 true)
    (fun t => t.pc == 0x202 && t.reg 0x2 == 0x03) = true := by decide

/-- K15. -/
theorem test_ldVxDt : after ((at200 0xF107).setDt 0x2A)
    (fun t => t.reg 0x1 == 0x2A && t.dt == 0x2A) = true := by decide

/-- K17. -/
theorem test_ldDtVx : after ((at200 0xF115).setReg 0x1 0x3C)
    (fun t => t.dt == 0x3C && t.st == 0x00) = true := by decide

/-- K19. -/
theorem test_ldStVx : after ((at200 0xF118).setReg 0x1 0x3C)
    (fun t => t.st == 0x3C && t.dt == 0x00) = true := by decide

/-! ## The host's transactions -/

/-- K24: two ticks from 1 do not wrap to FF. -/
theorem test_ticks_clamp :
    tickDown (tickDown 0x01) = 0x00 ∧ tickDown 0x00 = 0x00 ∧ tickDown 0x64 = 0x63 := by decide

/-- L7: Reset restores the font byte at 0x010 that the program overwrote. The byte is row 1 of glyph 3
in the table of `10_state.md` R22; the vector's own aside gives another value (log entry 5). -/
theorem test_reset_restores_font :
    (({ State.reset with fault := some .stackUnderflow }).storeRun 0x010 [0x00]).hostReset.memRead 0x010 =
      some 0x10 := by decide

/-- L5: an odd length is accepted and nothing follows the last byte. -/
theorem test_load_odd_length :
    (State.reset.hostLoad? [0x60, 0x01, 0x12]).map (fun t => t.loadRun 0x1FF 5) =
      some [0x00, 0x60, 0x01, 0x12, 0x00] := by decide

/-- The condition codes of D10. -/
theorem test_codes :
    StepOutcome.code (.unimplemented 0x0123) = 1 ∧ Fault.code .stackOverflow = 2 ∧
      Fault.code .stackUnderflow = 3 ∧ Fault.code .addressError = 4 ∧
      Response.code (.capacityError 3585) = 5 := by decide

/-! ## Witnesses: states and operands that meet the hypotheses of the obligations

A theorem `witness_<Name>` is about the obligation `Obligations.<Name>`; a suffix names the clause. -/

/-- The sixteen registers `10 11 .. 1F`. -/
def sampleRegs : Vector Byte 16 :=
  #v[0x10, 0x11, 0x12, 0x13, 0x14, 0x15, 0x16, 0x17, 0x18, 0x19, 0x1A, 0x1B, 0x1C, 0x1D, 0x1E, 0x1F]

theorem witness_EncodeOfDecodeIsTheWord :
    decode 0x00E0 = .ok .cls ∧ decode 0xFF65 = .ok (.ldRegs 0xF) := by decide

theorem witness_HaltedStepChangesNothing :
    ({ State.reset with fault := some .addressError } : State).fault = some .addressError := by decide

theorem witness_FetchOutsideMemoryFaults_first :
    ({ State.reset with pc := 0xFFF } : State).fault = none ∧
      ({ State.reset with pc := 0xFFF } : State).pc.toNat ≥ 4095 := by decide

theorem witness_FetchOutsideMemoryFaults_above :
    ({ State.reset with pc := 0xFFFF } : State).fault = none ∧
      ({ State.reset with pc := 0xFFFF } : State).pc.toNat ≥ 4095 := by decide

/-- The last word of memory. -/
def lastWord (w : Nat) : State := ({ State.reset with pc := 0xFFE } : State).withFetchWord 16 w

theorem witness_FetchIsBigEndian :
    (lastWord 0x00E0).memRead (lastWord 0x00E0).pc.toNat = some 0x00 ∧
      (lastWord 0x00E0).memRead ((lastWord 0x00E0).pc.toNat + 1) = some 0xE0 := by decide

theorem witness_StepRunsDecodedInstruction :
    (lastWord 0x00E0).fault = none ∧
      (lastWord 0x00E0).memRead (lastWord 0x00E0).pc.toNat = some 0x00 ∧
      (lastWord 0x00E0).memRead ((lastWord 0x00E0).pc.toNat + 1) = some 0xE0 ∧
      decode (wordOfBytes 0x00 0xE0) = .ok .cls := by decide

theorem witness_UnmatchedWordAdvancesAndReports :
    (lastWord 0xFFFF).fault = none ∧
      (lastWord 0xFFFF).memRead (lastWord 0xFFFF).pc.toNat = some 0xFF ∧
      (lastWord 0xFFFF).memRead ((lastWord 0xFFFF).pc.toNat + 1) = some 0xFF ∧
      (0xFFFF#16).toNat = (0xFF#8).toNat * 256 + (0xFF#8).toNat ∧
      (opcodeTable.all fun r => !r.selects 0xFFFF#16) = true := by decide

theorem witness_CallPushesReturnAddress_room :
    State.reset.sp.val < 16 ∧ ({ State.reset with sp := 15 } : State).sp.val < 16 := by decide

theorem witness_CallPushesReturnAddress_full :
    ({ State.reset with sp := 16, pc := 0x202 } : State).sp.val = 16 ∧
      ({ State.reset with sp := 16, pc := 0x202 } : State).pc = 0x200#16 + 2 := by decide

theorem witness_ReturnPopsReturnAddress_live :
    ({ State.reset with sp := 1 } : State).sp.val > 0 ∧
      ({ State.reset with sp := 16 } : State).sp.val > 0 := by decide

theorem witness_ReturnPopsReturnAddress_empty :
    ({ State.reset with pc := 0x202 } : State).sp.val = 0 ∧
      ({ State.reset with pc := 0x202 } : State).pc = 0x200#16 + 2 := by decide

theorem witness_SkipsComparingRegisters : (0x1#4 : Nibble) ≠ 0 ∧ (0xF#4 : Nibble) ≠ 0 := by decide

theorem witness_ReturnAfterCallResumes : ∃ t : State,
    ({ State.reset with sp := 15, pc := 0x402 } : State).sp.val < 16 ∧
      exec (.call 0xFFE) { State.reset with sp := 15, pc := 0x402 } = .next t ∧
      ({ t with i := 0x123 } : State).sp = t.sp ∧ ({ t with i := 0x123 } : State).stack = t.stack :=
  ⟨_, by decide, rfl, rfl, rfl⟩

/-- The hypothesis `X ≠ VF` of the results of `8XY4` to `8XYE`. -/
theorem witness_AddSetsCarry : (0x0#4 : Reg) ≠ VF ∧ (0xE#4 : Reg) ≠ VF := by decide

theorem witness_SubtractionsSetNoBorrow : (0x0#4 : Reg) ≠ VF ∧ (0xE#4 : Reg) ≠ VF := by decide

theorem witness_ShiftsMoveOneBit_vx :
    (0x10 = if (withRegs State.reset sampleRegs).config.shiftSrcVY then
        ((withRegs State.reset sampleRegs).reg 0x1).toNat
      else ((withRegs State.reset sampleRegs).reg 0x0).toNat) ∧ (0x0#4 : Reg) ≠ VF := by decide

theorem witness_ShiftsMoveOneBit_vy :
    (0x11 = if (srcVY (withRegs State.reset sampleRegs)).config.shiftSrcVY then
        ((srcVY (withRegs State.reset sampleRegs)).reg 0x1).toNat
      else ((srcVY (withRegs State.reset sampleRegs)).reg 0x0).toNat) ∧ (0x0#4 : Reg) ≠ VF := by decide

/-- A state with `I = i`, sample registers and the `PC` of an instruction at 0x200. -/
def withI (i : Word) : State := withRegs { State.reset with i := i, pc := 0x202 } sampleRegs

theorem withI_canonical (i : Word) : MemoryCanonical (withI i) := Memory.wf_nil _

theorem witness_StoreDecimalDigits_inside :
    MemoryCanonical (withI 0xFFD) ∧ (withI 0xFFD).i.toNat + 2 ≤ 4095 :=
  ⟨withI_canonical _, by decide⟩

theorem witness_StoreDecimalDigits_outside :
    MemoryCanonical (withI 0xFFE) ∧ (withI 0xFFE).i.toNat + 2 > 4095 ∧
      (withI 0xFFE).pc = 0x200#16 + 2 :=
  ⟨withI_canonical _, by decide⟩

theorem witness_StoreRegistersInclusive_inside :
    MemoryCanonical (withI 0xFF0) ∧ (withI 0xFF0).i.toNat + (0xF#4).toNat ≤ 4095 ∧
      (0xF#4).toNat ≤ (0xF#4).toNat :=
  ⟨withI_canonical _, by decide⟩

theorem witness_StoreRegistersInclusive_outside :
    MemoryCanonical (withI 0xFF1) ∧ (withI 0xFF1).i.toNat + (0xF#4).toNat > 4095 ∧
      (withI 0xFF1).pc = 0x200#16 + 2 :=
  ⟨withI_canonical _, by decide⟩

theorem witness_LoadRegistersInclusive_inside :
    (withI 0xFFC).i.toNat + (0x3#4).toNat ≤ 4095 ∧ (0x3#4).toNat ≤ (0x3#4).toNat ∧
      (0x4#4).toNat > (0x3#4).toNat := by decide

theorem witness_LoadRegistersInclusive_outside :
    (withI 0xFFD).i.toNat + (0x3#4).toNat > 4095 ∧ (withI 0xFFD).pc = 0x200#16 + 2 := by decide

theorem witness_RunOutsideMemoryFaults :
    (withI 0xFFF).pc = 0x200#16 + 2 ∧ (0x2#4).toNat > 0 ∧
      (withI 0xFFF).i.toNat + (0x2#4).toNat - 1 > 4095 ∧ (withI 0xFFF).i.toNat + 2 > 4095 ∧
      (withI 0xFFF).i.toNat + (0x1#4).toNat > 4095 := by decide

theorem witness_LoadAfterStoreRestoresRegisters : ∃ t : State,
    MemoryCanonical (withI 0xFF0) ∧ (withI 0xFF0).i.toNat + (0xF#4).toNat ≤ 4095 ∧
      exec (.stRegs 0xF) (withI 0xFF0) = .next t ∧
      ({ t with v := State.reset.v } : State).mem = t.mem ∧
      ({ t with v := State.reset.v } : State).config = t.config ∧
      ({ t with v := State.reset.v } : State).i = (withI 0xFF0).i :=
  ⟨_, withI_canonical _, by decide, rfl, rfl, rfl, rfl⟩

theorem witness_NextFetchSeesStore :
    MemoryCanonical (withI 0x202) ∧ (0x1#4).toNat ≥ 1 ∧ (withI 0x202).i = (withI 0x202).pc ∧
      (withI 0x202).i.toNat + (0x1#4).toNat ≤ 4095 :=
  ⟨withI_canonical _, by decide⟩

theorem witness_DrawXorsSprite_rows :
    (0x1#4).toNat = 0 ∨ (withI 0xFFF).i.toNat + (0x1#4).toNat - 1 ≤ 4095 := by decide

theorem witness_DrawXorsSprite_none :
    (0x0#4).toNat = 0 ∨ (withI 0x2000).i.toNat + (0x0#4).toNat - 1 ≤ 4095 := by decide

theorem witness_DrawTwiceRestoresDisplay : ∃ t : State,
    ((0x5#4).toNat = 0 ∨ (withI 0x005).i.toNat + (0x5#4).toNat - 1 ≤ 4095) ∧
      exec (.drw 0x0 0x1 0x5) (withI 0x005) = .next t ∧
      (t.reg 0x0).toNat % 64 = ((withI 0x005).reg 0x0).toNat % 64 ∧
      (t.reg 0x1).toNat % 32 = ((withI 0x005).reg 0x1).toNat % 32 :=
  ⟨_, by decide, rfl, by decide, by decide⟩

theorem witness_SkipsOnKey_index :
    ((State.reset.setReg 0x1 0x0F).setKey 0xF true).key[
      (((State.reset.setReg 0x1 0x0F).setKey 0xF true).reg 0x1).toNat]? = some true ∧
    (State.reset.setReg 0x1 0x0F).key[((State.reset.setReg 0x1 0x0F).reg 0x1).toNat]? =
      some false := by decide

theorem witness_SkipsOnKey_outside :
    (({ State.reset with pc := 0x202 } : State).setReg 0x1 0x10 |>.reg 0x1).toNat > 15 ∧
      (({ State.reset with pc := 0x202 } : State).setReg 0x1 0x10).pc = 0x200#16 + 2 := by decide

theorem witness_KeyWaitParksOrTakesLowestKey_none :
    (∀ k (h : k < 16), ({ State.reset with pc := 0x202 } : State).key[k] = false) ∧
      ({ State.reset with pc := 0x202 } : State).pc = 0x200#16 + 2 := by decide

theorem witness_KeyWaitParksOrTakesLowestKey_first :
    (State.reset.setKey 0x0 true).key[0] = true ∧
      ∀ j (hj : j < 0), (State.reset.setKey 0x0 true).key[j] = false := by decide

theorem witness_KeyWaitParksOrTakesLowestKey_last :
    (State.reset.setKey 0xF true).key[15] = true ∧
      ∀ j (hj : j < 15), (State.reset.setKey 0xF true).key[j] = false := by decide

theorem witness_ParkedStepChangesNothing :
    (at200 0xF20A).fault = none ∧ (at200 0xF20A).fetch = some (encode (.ldVxK 0x2)) ∧
      ∀ k (h : k < 16), (at200 0xF20A).key[k] = false := by decide

theorem witness_SelfJumpChangesNothing :
    (at200 0x1200).fault = none ∧ (at200 0x1200).pc.toNat = (0x200#12).toNat ∧
      (at200 0x1200).fetch = some (encode (.jp 0x200)) := by decide

/-- A run of two ticks around a jump, which runs neither `FX15` nor `FX18`. -/
theorem witness_TicksCountDownAndClamp : ∃ rs t,
    Transaction.reset ∉ [Transaction.tickTimers, .step, .tickTimers] ∧
      runTransactions [.tickTimers, .step, .tickTimers] ((at200 0x1200).setDt 0x01) = .next (rs, t) ∧
      NeverRuns (fun i => ∃ x, i = .ldDtVx x) [.tickTimers, .step, .tickTimers]
        ((at200 0x1200).setDt 0x01) := by
  refine ⟨_, _, by decide, rfl, ⟨nofun, fun r t h => ⟨fun _ i hi => ?_, fun _ _ _ =>
    ⟨nofun, fun _ _ _ => trivial⟩⟩⟩⟩
  injection h with h
  injection h with _ h
  subst h
  obtain ⟨-, w, hw, hd⟩ := hi
  have hf : ((at200 0x1200).setDt 0x01).tickTimers.fetch = some 0x1200 := by decide
  rw [hf] at hw
  injection hw with hw
  subst hw
  have hj : decode 0x1200 = .ok (.jp 0x200) := by decide
  rw [hj] at hd
  injection hd with hd
  subst hd
  rintro ⟨x, hx⟩
  cases hx

theorem witness_LoadCopiesOrRefuses_refused :
    MemoryCanonical State.reset ∧ (List.replicate 3585 0xAB#8).length > 3584 :=
  ⟨Memory.wf_nil _, by rw [List.length_replicate]; decide⟩

theorem witness_LoadCopiesOrRefuses_longest :
    MemoryCanonical State.reset ∧ (List.replicate 3584 0xAB#8).length ≤ 3584 :=
  ⟨Memory.wf_nil _, by rw [List.length_replicate]⟩

theorem witness_LoadedProgramRunsFromEntry :
    (encodeBytes .cls ++ List.replicate 3582 0xAB#8).length ≤ 3584 := by
  rw [List.length_append, List.length_replicate]
  decide

theorem witness_FaultSticksUntilReset : ∃ rs t,
    ({ State.reset with fault := some .stackOverflow } : State).fault = some .stackOverflow ∧
      Transaction.reset ∉ [Transaction.step, .load [0x12, 0x00], .setKey 0x1 true, .tickTimers, .step,
        .readSoundActive] ∧
      runTransactions [.step, .load [0x12, 0x00], .setKey 0x1 true, .tickTimers, .step,
        .readSoundActive] { State.reset with fault := some .stackOverflow } = .next (rs, t) :=
  ⟨_, _, by decide, by decide, rfl⟩

theorem witness_StepKeepsMemoryCanonical : ∃ t,
    MemoryCanonical { at200 0xF033 with i := 0x300 } ∧
      step { at200 0xF033 with i := 0x300 } = .next t :=
  ⟨_, by show Memory.wf _ _; decide, rfl⟩

theorem witness_TransactionsKeepMemoryCanonical : ∃ r t,
    MemoryCanonical (at200 0x1200) ∧ transact (.load [0x12, 0x00]) (at200 0x1200) = .next (r, t) :=
  ⟨_, _, by show Memory.wf _ _; decide, rfl⟩

theorem witness_StepKeepsPcBounded : ∃ t,
    PcBounded { State.reset with pc := 0x10FE, stack := Vector.replicate 16 4096#16 } ∧
      step { State.reset with pc := 0x10FE, stack := Vector.replicate 16 4096#16 } = .next t :=
  ⟨_, ⟨by decide, by decide⟩, rfl⟩

/-- Each report of a `Step`: `Ok`, `Unimplemented`, `Fatal`, `Halted`. -/
theorem witness_OutcomeAgreesWithLatch :
    after (at200 0x1200) (fun t => t.outcome == .ok) = true ∧
    after (at200 0x0000) (fun t => t.outcome == .unimplemented 0x0000) = true ∧
    after (at200 0x00EE) (fun t => t.outcome == .fatal .stackUnderflow 0x200 0x200) = true ∧
    after { at200 0x1200 with fault := some .addressError }
      (fun t => t.outcome == .halted .addressError) = true := by decide

/-- A fatal report by an instruction, and one by the fetch. -/
theorem witness_FatalStepHasNoPartialEffect : ∃ t u,
    step (at200 0x00EE) = .next t ∧ t.outcome = .fatal .stackUnderflow 0x200 0x200 ∧
    step { State.reset with pc := 0xFFF } = .next u ∧
      u.outcome = .fatal .addressError 0x1000 0xFFF :=
  ⟨_, _, rfl, by decide, rfl, by decide⟩

/-- A step that changes a register, a tick that changes a timer, a key set. -/
theorem witness_OnlyListedWritersChangeState : ∃ r t r' t' r'' t'',
    (transact .step (at200 0x6A7F) = .next (r, t) ∧ ¬ Piece.Same .regs (at200 0x6A7F) t) ∧
    (transact .tickTimers (State.reset.setDt 0x01) = .next (r', t') ∧
      ¬ Piece.Same .delay (State.reset.setDt 0x01) t') ∧
    transact (.setKey 0x1 true) State.reset = .next (r'', t'') ∧
      ¬ Piece.Same .keys State.reset t'' := by
  refine ⟨_, _, _, _, _, _, ⟨rfl, ?_⟩, ⟨rfl, ?_⟩, rfl, ?_⟩
  · show ¬ (_ = _)
    decide
  · show ¬ (_ = _)
    decide
  · show ¬ (_ = _)
    decide

/-- Two states with the same display and a silent sound timer, and a transaction that is no `Step`. -/
theorem witness_OnlyListedWritersChangeState_ports : ∃ r' t',
    Transaction.readDisplay ≠ .step ∧ (State.reset.setI 0x123).fb = State.reset.fb ∧
      ((State.reset.setI 0x123).st = 0 ↔ State.reset.st = 0) ∧
      transact .readDisplay (State.reset.setI 0x123) = .next (r', t') :=
  ⟨_, _, by decide, rfl, Iff.rfl, rfl⟩

theorem witness_SoundTimerNeverInfluencesStep : ∃ t,
    step ((at200 0xF118).setReg 0x1 0x3C) = .next t := ⟨_, rfl⟩

/-- Dead slots that differ, one live slot that agrees. -/
theorem witness_DeadStackSlotsNeverInfluenceStep : ∃ t,
    (∀ j (h : j < 16), j < ({ at200 0x00EE with sp := 1 } : State).sp.val →
      (((Vector.replicate 16 0xABC#16).set 0 0#16))[j] =
        ({ at200 0x00EE with sp := 1 } : State).stack[j]) ∧
      step { at200 0x00EE with sp := 1 } = .next t :=
  ⟨_, by decide, rfl⟩

end Sys2Proof.Tests
end

section
/-! PROOFS. The writer matrix (`10_state.md` R26): a frame relation with one rule per state operation, the
pieces each instruction writes, and what each transaction of the host changes and returns. -/

namespace Sys2Proof.Machine

variable {W : Piece → Prop} {s t u : State}

/-! ## The frame relation -/

/-- From `s` to `t` the configuration is as it was and no piece changes but those that `W` allows. -/
structure ChangesOnly (W : Piece → Prop) (s t : State) : Prop where
  config : t.config = s.config
  allowed : ∀ p : Piece, ¬ p.Same s t → W p

theorem Piece.same_refl (p : Piece) (s : State) : p.Same s s := by
  cases p <;> simp [Piece.Same]

theorem Piece.Same.trans {p : Piece} (h₁ : p.Same s t) (h₂ : p.Same t u) : p.Same s u := by
  cases p <;> simp_all [Piece.Same]

namespace ChangesOnly

theorem refl (W : Piece → Prop) (s : State) : ChangesOnly W s s :=
  ⟨rfl, fun p h => absurd (p.same_refl s) h⟩

theorem trans (h₁ : ChangesOnly W s t) (h₂ : ChangesOnly W t u) : ChangesOnly W s u where
  config := h₂.config.trans h₁.config
  allowed p h := by
    by_cases hst : p.Same s t
    · exact h₂.allowed p fun htu => h (hst.trans htu)
    · exact h₁.allowed p hst

theorem mono {W' : Piece → Prop} (h : ChangesOnly W s t) (hW : ∀ p, W p → W' p) :
    ChangesOnly W' s t :=
  ⟨h.config, fun p hp => hW p (h.allowed p hp)⟩

/-! ## One rule per state operation

Each operation writes one piece, which `W` must allow, or none; the laws of the state show that it
leaves every other piece as it was. -/

theorem setRegs (h : W .regs) (v : Vector Byte 16) : ChangesOnly W s (s.setRegs v) :=
  ⟨rfl, fun p hp => by cases p <;> simp_all [Piece.Same]⟩

theorem setReg (h : W .regs) (x : Reg) (b : Byte) : ChangesOnly W s (s.setReg x b) :=
  setRegs h _

theorem setRegFlag (h : W .regs) (x : Reg) (b : Byte) (q : Bool) :
    ChangesOnly W s (s.setRegFlag x b q) :=
  (setReg h x b).trans (setReg h VF _)

theorem setI (h : W .index) (w : Word) : ChangesOnly W s (s.setI w) :=
  ⟨rfl, fun p hp => by cases p <;> simp_all [Piece.Same]⟩

theorem setPc (h : W .pc) (w : Word) : ChangesOnly W s (s.setPc w) :=
  ⟨rfl, fun p hp => by cases p <;> simp_all [Piece.Same]⟩

theorem setDt (h : W .delay) (b : Byte) : ChangesOnly W s (s.setDt b) :=
  ⟨rfl, fun p hp => by cases p <;> simp_all [Piece.Same]⟩

theorem setSt (h : W .sound) (b : Byte) : ChangesOnly W s (s.setSt b) :=
  ⟨rfl, fun p hp => by cases p <;> simp_all [Piece.Same]⟩

theorem setKey (h : W .keys) (k : Nibble) (q : Bool) : ChangesOnly W s (s.setKey k q) :=
  ⟨rfl, fun p hp => by cases p <;> simp_all [Piece.Same]⟩

theorem setFb (h : W .display) (fb : Screen) : ChangesOnly W s (s.setFb fb) :=
  ⟨rfl, fun p hp => by cases p <;> simp_all [Piece.Same]⟩

theorem storeRun (h : W .memory) (a : Nat) (bs : List Byte) : ChangesOnly W s (s.storeRun a bs) :=
  ⟨rfl, fun p hp => by cases p <;> simp_all [Piece.Same]⟩

theorem latch (h : W .fault) (c : Fault) (info : Nat) (a : Word) :
    ChangesOnly W s (s.latch c info a) :=
  ⟨rfl, fun p hp => by cases p <;> simp_all [Piece.Same]⟩

theorem advance (h : W .pc) : ChangesOnly W s s.advance :=
  ⟨rfl, fun p hp => by cases p <;> simp_all [Piece.Same]⟩

theorem reportUnimplemented (h : W .pc) (w : Word) : ChangesOnly W s (s.reportUnimplemented w) :=
  ⟨rfl, fun p hp => by cases p <;> simp_all [Piece.Same]⟩

theorem reportHalted (c : Fault) : ChangesOnly W s (s.reportHalted c) :=
  ⟨rfl, fun p hp => by cases p <;> simp_all [Piece.Same]⟩

theorem consumeRandom : ChangesOnly W s s.consumeRandom :=
  ⟨rfl, fun p hp => by cases p <;> simp_all [Piece.Same]⟩

theorem callStack (h : W .callStack) (k : Vector Word 16) (n : Fin 17) :
    ChangesOnly W s { s with stack := k, sp := n } :=
  ⟨rfl, fun p hp => by cases p <;> simp_all [Piece.Same]⟩

theorem skipIf (h : W .pc) (q : Bool) : ChangesOnly W s (skipIf q s) := by
  cases q
  · exact refl W s
  · exact setPc h _

theorem incIndex (h : s.config.indexInc = true → W .index) (x : Reg) :
    ChangesOnly W s (incIndex x s) := by
  unfold Machine.incIndex
  split
  case isTrue hinc => exact setI (h hinc) _
  case isFalse => exact refl W s

/-! ## What a meaning answers -/

theorem of_next (hu : ChangesOnly W s u) (h : (.next u : Result) = .next t) :
    ChangesOnly W s t := by
  injection h with h
  exact h ▸ hu

theorem of_raise (hf : W .fault) {c : Fault} {info : Nat} (h : raise c info s = .next t) :
    ChangesOnly W s t :=
  raise_inv h ▸ latch hf c info s.insnAddr

end ChangesOnly

/-! ## Instructions -/

/-- `FX55` may write `I` only where `INDEX_INC` is true (R104). -/
theorem mem_stepWrites_stRegs (inc : Bool) (x : Reg) (p : Piece) :
    p ∈ stepWrites inc (.stRegs x) ↔ p = .memory ∨ (inc = true ∧ p = .index) ∨ p = .fault := by
  cases inc <;> simp [stepWrites]

/-- `FX65` may write `I` only where `INDEX_INC` is true (R105). -/
theorem mem_stepWrites_ldRegs (inc : Bool) (x : Reg) (p : Piece) :
    p ∈ stepWrites inc (.ldRegs x) ↔ p = .regs ∨ (inc = true ∧ p = .index) ∨ p = .fault := by
  cases inc <;> simp [stepWrites]

/-- An instruction changes no piece but those of its row of the writer matrix. -/
theorem exec_changesOnly {i : Instr} (h : exec i s = .next t) :
    ChangesOnly (· ∈ stepWrites s.config.indexInc i) s t := by
  cases i
  case cls => exact .of_next (.setFb (by simp [stepWrites]) _) h
  case ldImm | addImm | ldReg | orReg | andReg | xorReg | ldVxDt =>
    exact .of_next (.setReg (by simp [stepWrites]) _ _) h
  case addReg | sub | shr | subn | shl =>
    exact .of_next (.setRegFlag (by simp [stepWrites]) _ _ _) h
  case rnd =>
    exact .of_next (.trans .consumeRandom (.setReg (by simp [stepWrites]) _ _)) h
  case jp | jpV0 => exact .of_next (.setPc (by simp [stepWrites]) _) h
  case seImm | sneImm | seReg | sneReg => exact .of_next (.skipIf (by simp [stepWrites]) _) h
  case ldI | addI | ldF => exact .of_next (.setI (by simp [stepWrites]) _) h
  case ldDtVx => exact .of_next (.setDt (by simp [stepWrites]) _) h
  case ldStVx => exact .of_next (.setSt (by simp [stepWrites]) _) h
  case ret =>
    rw [exec, execRet] at h
    rcases s.pop?_cases with ⟨-, hp⟩ | ⟨_, hp⟩ <;> rw [hp] at h
    · exact .of_raise (by simp [stepWrites]) h
    · exact .of_next (.trans (.callStack (by simp [stepWrites]) _ _)
        (.setPc (by simp [stepWrites]) _)) h
  case call nnn =>
    rw [exec, execCall] at h
    rcases s.push?_cases s.pc with ⟨-, hp⟩ | ⟨_, hp⟩ <;> rw [hp] at h
    · exact .of_raise (by simp [stepWrites]) h
    · exact .of_next (.trans (.callStack (by simp [stepWrites]) _ _)
        (.setPc (by simp [stepWrites]) _)) h
  case skp | sknp =>
    simp only [exec, execSkp, execSknp] at h
    split at h
    · exact .of_next (.skipIf (by simp [stepWrites]) _) h
    · exact .of_raise (by simp [stepWrites]) h
  case ldVxK x =>
    rw [exec, execLdVxK] at h
    split at h
    · exact .of_next (.setReg (by simp [stepWrites]) _ _) h
    · exact .of_next (.setPc (by simp [stepWrites]) _) h
  case drw x y n =>
    rw [exec, execDrw] at h
    split at h
    · exact .of_raise (by simp [stepWrites]) h
    · exact .of_next (.trans (.setFb (by simp [stepWrites]) _)
        (.setReg (by simp [stepWrites]) _ _)) h
  case ldB x =>
    rw [exec, execLdB] at h
    split at h
    · exact .of_raise (by simp [stepWrites]) h
    · exact .of_next (.storeRun (by simp [stepWrites]) _ _) h
  case stRegs x =>
    rw [exec, execStRegs] at h
    split at h
    · exact .of_raise (by simp [mem_stepWrites_stRegs]) h
    · exact .of_next (.trans (.storeRun (by simp [mem_stepWrites_stRegs]) _ _)
        (.incIndex (fun hinc => by simp_all [mem_stepWrites_stRegs]) _)) h
  case ldRegs x =>
    rw [exec, execLdRegs] at h
    split at h
    · exact .of_raise (by simp [mem_stepWrites_ldRegs]) h
    · exact .of_next (.trans (.setRegs (by simp [mem_stepWrites_ldRegs]) _)
        (.incIndex (fun hinc => by simp_all [mem_stepWrites_ldRegs]) _)) h

/-! ## Transactions -/

/-- A `Step` changes `PC` in its fetch, `FAULT` where the fetch faults, and what its instruction may
write. -/
theorem step_changesOnly (h : step s = .next t) : ChangesOnly (MayWrite .step s) s t := by
  rcases step_cases h with ⟨c, -, rfl⟩ | ⟨hs, hf, rfl⟩ | ⟨w, e, hs, -, -, rfl⟩ |
    ⟨w, i, hs, hf, hd, he⟩
  · exact .reportHalted c
  · exact .latch (.inr (.inl ⟨rfl, hs, hf⟩)) _ _ _
  · exact .reportUnimplemented (.inl ⟨rfl, hs⟩) w
  · have hrun : RunsNext s i := ⟨hs, w, hf, hd⟩
    exact .trans (.advance (.inl ⟨rfl, hs⟩))
      ((exec_changesOnly he).mono fun p hp => .inr (.inr ⟨i, hrun, hp⟩))

/-- The two ways a `Load` goes: the bytes fit and are stored, or nothing changes (R47). -/
theorem transact_load_inv {bytes : Program} {r : Response}
    (h : transact (.load bytes) s = .next (r, t)) :
    (bytes.length ≤ progMax ∧ r = .loaded ∧ t = s.storeRun progBase bytes) ∨
    (progMax < bytes.length ∧ r = .capacityError bytes.length ∧ t = s) := by
  rw [transact_load] at h
  injection h with h
  split at h
  case isTrue hle =>
    injection h with hr ht
    exact .inl ⟨hle, hr.symm, ht.symm⟩
  case isFalse hgt =>
    injection h with hr ht
    exact .inr ⟨by omega, hr.symm, ht.symm⟩

/-- R26 row by row: a transaction changes only what the writer matrix lets it change. -/
theorem transact_changesOnly {x : Transaction} {r : Response} (h : transact x s = .next (r, t)) :
    ChangesOnly (MayWrite x s) s t := by
  cases x
  case reset =>
    cases h
    exact ⟨rfl, fun _ _ => trivial⟩
  case load bytes =>
    rcases transact_load_inv h with ⟨-, -, rfl⟩ | ⟨-, -, rfl⟩
    · exact .storeRun (W := (· = .memory)) rfl _ _
    · exact .refl _ _
  case step => exact step_changesOnly (transact_step_inv s h).1
  case tickTimers =>
    cases h
    exact .trans (.setDt (.inl rfl) _) (.setSt (.inr rfl) _)
  case setKey k q =>
    cases h
    exact .setKey (W := (· = .keys)) rfl k q
  case readDisplay | readSoundActive =>
    cases h
    exact .refl _ _

/-- A store changes no byte below the first one it writes, whatever form memory has. -/
theorem State.memRead_storeRun_of_lt (s : State) {a k : Nat} (bs : List Byte) (h : k < a) :
    (s.storeRun a bs).memRead k = s.memRead k := by
  simp [State.memRead, Memory.get_setRun_of_lt s.config k bs a s.mem h]

/-- `Load` writes nothing below 0x200. -/
theorem load_memRead_below {bytes : Program} {r : Response}
    (h : transact (.load bytes) s = .next (r, t)) {a : Nat} (ha : a < 0x200) :
    t.memRead a = s.memRead a := by
  rcases transact_load_inv h with ⟨-, -, rfl⟩ | ⟨-, -, rfl⟩
  · exact s.memRead_storeRun_of_lt bytes ha
  · rfl

/-- `TickTimers` takes each timer down by 1, clamped at 0. -/
theorem tickTimers_toNat {r : Response} (h : transact .tickTimers s = .next (r, t)) :
    t.dt.toNat = s.dt.toNat - 1 ∧ t.st.toNat = s.st.toNat - 1 := by
  cases h
  exact ⟨tickDown_toNat s.dt, tickDown_toNat s.st⟩

/-! ## What the host reads -/

/-- `ReadDisplay` returns what `FB` alone says. -/
theorem State.readDisplay_congr {s' : State} (h : s'.fb = s.fb) : s'.readDisplay = s.readDisplay := by
  simp only [State.readDisplay, h]

/-- `ReadSoundActive` returns what "ST is 0" alone says. -/
theorem State.readSoundActive_congr {s' : State} (h : s'.st = 0 ↔ s.st = 0) :
    s'.readSoundActive = s.readSoundActive :=
  decide_eq_decide.mpr (not_congr h)

/-- What a transaction other than `Step` returns depends on `FB` and on whether `ST` is 0 alone. -/
theorem response_congr {x : Transaction} {s' t' : State} {r r' : Response}
    (h : transact x s = .next (r, t)) (h' : transact x s' = .next (r', t')) (hx : x ≠ .step)
    (hfb : s'.fb = s.fb) (hst : s'.st = 0 ↔ s.st = 0) : r' = r := by
  cases x
  case step => exact absurd rfl hx
  case load bytes =>
    rcases transact_load_inv h with ⟨hl, rfl, -⟩ | ⟨hl, rfl, -⟩ <;>
      rcases transact_load_inv h' with ⟨hl', rfl, -⟩ | ⟨hl', rfl, -⟩
    · rfl
    · omega
    · omega
    · rfl
  case reset | tickTimers | setKey =>
    cases h
    cases h'
    rfl
  case readDisplay =>
    cases h
    cases h'
    rw [State.readDisplay_congr hfb]
  case readSoundActive =>
    cases h
    cases h'
    rw [State.readSoundActive_congr hst]

/-- Settles O53: `transact_changesOnly` for the matrix, and a lemma for each of the other clauses. -/
theorem onlyListedWritersChangeState : Obligations.OnlyListedWritersChangeState := by
  intro x s t r h
  obtain ⟨hconfig, hallowed⟩ := transact_changesOnly h
  refine ⟨hconfig, hallowed, ?_, ?_, ?_⟩
  · rintro bytes rfl a ha
    exact load_memRead_below h ha
  · rintro rfl
    exact tickTimers_toNat h
  · intro s' t' r' hx hfb hst h'
    exact response_congr h h' hx hfb hst

end Sys2Proof.Machine
end

section
/-! PROOFS. Memory (`20_memory.md`): the nibbles of a fetched word (R34), and what a store and a `Load`
leave at each address (R47). -/

namespace Sys2Proof

variable (hi lo : Byte)

/-! ## The fields of a word as nibbles of its two bytes -/

theorem toNat_fieldN1_wordOfBytes : (fieldN1 (wordOfBytes hi lo)).toNat = hi.toNat / 16 := by
  rw [toNat_fieldN1, toNat_wordOfBytes]
  omega

theorem toNat_fieldX_wordOfBytes : (fieldX (wordOfBytes hi lo)).toNat = hi.toNat % 16 := by
  rw [toNat_fieldX, toNat_wordOfBytes]
  omega

theorem toNat_fieldY_wordOfBytes : (fieldY (wordOfBytes hi lo)).toNat = lo.toNat / 16 := by
  rw [toNat_fieldY, toNat_wordOfBytes]
  omega

theorem toNat_fieldN_wordOfBytes : (fieldN (wordOfBytes hi lo)).toNat = lo.toNat % 16 := by
  rw [toNat_fieldN, toNat_wordOfBytes]
  omega

end Sys2Proof

namespace Sys2Proof.Machine

variable (s : State)

/-! ## A store at each address -/

/-- Byte `j` of a store is read back at `a + j`. -/
theorem State.memRead_storeRun_add (hs : MemoryCanonical s) {a j : Nat} {bs : List Byte}
    (hj : j < bs.length) (hmem : a + j < memSize) :
    (s.storeRun a bs).memRead (a + j) = some bs[j] := by
  rw [s.memRead_storeRun hs, dif_pos ⟨by omega, by omega⟩, if_pos hmem]
  simp only [Nat.add_sub_cancel_left]

/-- A store leaves every byte outside its run as it was. -/
theorem State.storeRun_keepsMemoryOutside (hs : MemoryCanonical s) (a : Nat) (bs : List Byte) :
    KeepsMemoryOutside a bs.length s (s.storeRun a bs) := by
  intro k hk
  rw [s.memRead_storeRun hs, dif_neg (by omega)]

/-! ## The two answers of a `Load` -/

theorem transact_load_of_le {bytes : Program} (h : bytes.length ≤ progMax) :
    transact (.load bytes) s = .next (.loaded, s.storeRun progBase bytes) := by
  rw [transact_load, if_pos h]

theorem transact_load_of_gt {bytes : Program} (h : progMax < bytes.length) :
    transact (.load bytes) s = .next (.capacityError bytes.length, s) := by
  rw [transact_load, if_neg (by omega)]

/-! ## The obligations -/

/-- Settles O7: the fetched word is that of the two bytes, and its fields are their nibbles. -/
theorem fetchIsBigEndian : Obligations.FetchIsBigEndian := by
  intro s hi lo hhi hlo
  exact ⟨wordOfBytes hi lo, s.fetch_eq_some.mpr ⟨hi, lo, hhi, hlo, rfl⟩, toNat_wordOfBytes hi lo,
    toNat_fieldN1_wordOfBytes hi lo, toNat_fieldX_wordOfBytes hi lo,
    toNat_fieldY_wordOfBytes hi lo, toNat_fieldN_wordOfBytes hi lo⟩

/-- Settles O42: a `Load` that fits is one store at 0x200, whose run ends inside memory because
0x200 + 3584 = 4096. -/
theorem loadCopiesOrRefuses : Obligations.LoadCopiesOrRefuses := by
  intro bytes s hs
  refine ⟨transact_load_of_gt s, fun hlen => ⟨s.storeRun progBase bytes, ?_, ?_, ?_, rfl⟩⟩
  · exact transact_load_of_le s hlen
  · intro j hj
    have hmem : 0x200 + j < memSize := by
      rw [memSize_eq]
      omega
    exact s.memRead_storeRun_add hs hj hmem
  · exact s.storeRun_keepsMemoryOutside hs progBase bytes

end Sys2Proof.Machine
end

section
/-! PROOFS. Encoding (`30_encoding.md`): the words that decode, and the rows of the opcode table that
select a word (R53, R54). A row that selects a word agrees with it on every field the row's mask
covers, so its pattern says in which class of R53 the word lies; and two rows that select one word
agree where their masks overlap, which no two rows of the table do. -/

namespace Sys2Proof

variable {w : Word} {i : Instr} {r q : OpcodeRow}

/-! ## A word as its fields -/

theorem append_fieldNNN {n : Nibble} (h1 : fieldN1 w = n) : n ++ fieldNNN w = w := by
  subst h1
  apply BitVec.eq_of_toNat_eq
  rw [toNat_nnn, toNat_fieldN1, toNat_fieldNNN]
  omega

theorem append_fieldX_fieldNN {n : Nibble} {nn : Byte} (h1 : fieldN1 w = n)
    (hnn : fieldNN w = nn) : n ++ fieldX w ++ nn = w := by
  subst h1 hnn
  apply BitVec.eq_of_toNat_eq
  rw [toNat_xnn, toNat_fieldN1, toNat_fieldX, toNat_fieldNN]
  omega

theorem append_fieldX_fieldY_fieldN {n m : Nibble} (h1 : fieldN1 w = n) (hn : fieldN w = m) :
    n ++ fieldX w ++ fieldY w ++ m = w := by
  subst h1 hn
  apply BitVec.eq_of_toNat_eq
  rw [toNat_xyn, toNat_fieldN1, toNat_fieldX, toNat_fieldY, toNat_fieldN]
  omega

theorem nibble_cases : ∀ n : Nibble,
    n = 0x0 ∨ n = 0x1 ∨ n = 0x2 ∨ n = 0x3 ∨ n = 0x4 ∨ n = 0x5 ∨ n = 0x6 ∨ n = 0x7 ∨
    n = 0x8 ∨ n = 0x9 ∨ n = 0xA ∨ n = 0xB ∨ n = 0xC ∨ n = 0xD ∨ n = 0xE ∨ n = 0xF := by
  decide

/-! ## What the decoder answers -/

theorem decode_eq_ok_iff : decode w = .ok i ↔ decodeClasses w = some i := by
  unfold decode
  cases decodeClasses w <;> simp

theorem decode_of_decodeClasses_none (h : decodeClasses w = none) :
    decode w = .error (.unimplementedOpcode w) := by
  unfold decode
  rw [h]

/-! ## The words that decode (R53) -/

theorem exists_ite_some_eq_some {α : Type} {c : Prop} [Decidable c] (a : α) (o : Option α) :
    (∃ b, (if c then some a else o) = some b) ↔ c ∨ ∃ b, o = some b := by
  by_cases hc : c <;> simp [hc]

theorem exists_decodeClass8_eq_some_iff (x y : Reg) (n : Nibble) :
    (∃ i, decodeClass8 x y n = some i) ↔
      n ∈ [0x0, 0x1, 0x2, 0x3, 0x4, 0x5, 0x6, 0x7, 0xE] := by
  simp [decodeClass8, exists_ite_some_eq_some]

theorem exists_decodeClassE_eq_some_iff (x : Reg) (nn : Byte) :
    (∃ i, decodeClassE x nn = some i) ↔ nn ∈ [0x9E, 0xA1] := by
  simp [decodeClassE, exists_ite_some_eq_some]

theorem exists_decodeClassF_eq_some_iff (x : Reg) (nn : Byte) :
    (∃ i, decodeClassF x nn = some i) ↔
      nn ∈ [0x07, 0x0A, 0x15, 0x18, 0x1E, 0x29, 0x33, 0x55, 0x65] := by
  simp [decodeClassF, exists_ite_some_eq_some]

/-- R53's list of the words that decode, by nibbles. -/
def ListedByNibbles (w : Word) : Prop :=
  fieldN1 w ∈ [0x1, 0x2, 0x3, 0x4, 0x6, 0x7, 0xA, 0xB, 0xC, 0xD] ∨
  (fieldN1 w = 0x0 ∧ (w = 0x00E0 ∨ w = 0x00EE)) ∨
  ((fieldN1 w = 0x5 ∨ fieldN1 w = 0x9) ∧ fieldN w = 0x0) ∨
  (fieldN1 w = 0x8 ∧ fieldN w ∈ [0x0, 0x1, 0x2, 0x3, 0x4, 0x5, 0x6, 0x7, 0xE]) ∨
  (fieldN1 w = 0xE ∧ fieldNN w ∈ [0x9E, 0xA1]) ∨
  (fieldN1 w = 0xF ∧ fieldNN w ∈ [0x07, 0x0A, 0x15, 0x18, 0x1E, 0x29, 0x33, 0x55, 0x65])

/-- The decoder's cases are R53's list: within a major opcode, the minor opcodes of its class. -/
theorem exists_decodeClasses_eq_some_iff :
    (∃ i, decodeClasses w = some i) ↔ ListedByNibbles w := by
  rcases nibble_cases (fieldN1 w) with
    h | h | h | h | h | h | h | h | h | h | h | h | h | h | h | h
  all_goals
    simp [decodeClasses, ListedByNibbles, h, exists_ite_some_eq_some,
      exists_decodeClass8_eq_some_iff, exists_decodeClassE_eq_some_iff,
      exists_decodeClassF_eq_some_iff]

/-! ## A word that decodes is the word of its instruction -/

theorem encode_of_decodeClass8 (h1 : fieldN1 w = 0x8)
    (h : decodeClass8 (fieldX w) (fieldY w) (fieldN w) = some i) : encode i = w := by
  unfold decodeClass8 at h
  split_ifs at h with hn hn hn hn hn hn hn hn hn
  all_goals
    cases h
    exact append_fieldX_fieldY_fieldN h1 hn

theorem encode_of_decodeClassE (h1 : fieldN1 w = 0xE)
    (h : decodeClassE (fieldX w) (fieldNN w) = some i) : encode i = w := by
  unfold decodeClassE at h
  split_ifs at h with hnn hnn
  all_goals
    cases h
    exact append_fieldX_fieldNN h1 hnn

theorem encode_of_decodeClassF (h1 : fieldN1 w = 0xF)
    (h : decodeClassF (fieldX w) (fieldNN w) = some i) : encode i = w := by
  unfold decodeClassF at h
  split_ifs at h with hnn hnn hnn hnn hnn hnn hnn hnn hnn
  all_goals
    cases h
    exact append_fieldX_fieldNN h1 hnn

theorem encode_of_decodeClasses (h : decodeClasses w = some i) : encode i = w := by
  rcases nibble_cases (fieldN1 w) with
    h1 | h1 | h1 | h1 | h1 | h1 | h1 | h1 | h1 | h1 | h1 | h1 | h1 | h1 | h1 | h1
  all_goals
    simp only [decodeClasses, h1, BitVec.reduceEq, reduceIte, BitVec.ofNat_eq_ofNat] at h
  · -- `00E0`, `00EE`: the whole word is given
    split_ifs at h with hcls hret
    · cases h; exact hcls.symm
    · cases h; exact hret.symm
  · cases h; exact append_fieldNNN h1              -- `1NNN`
  · cases h; exact append_fieldNNN h1              -- `2NNN`
  · cases h; exact append_fieldX_fieldNN h1 rfl    -- `3XNN`
  · cases h; exact append_fieldX_fieldNN h1 rfl    -- `4XNN`
  · -- `5XY0`
    split_ifs at h with hn
    cases h; exact append_fieldX_fieldY_fieldN h1 hn
  · cases h; exact append_fieldX_fieldNN h1 rfl    -- `6XNN`
  · cases h; exact append_fieldX_fieldNN h1 rfl    -- `7XNN`
  · exact encode_of_decodeClass8 h1 h
  · -- `9XY0`
    split_ifs at h with hn
    cases h; exact append_fieldX_fieldY_fieldN h1 hn
  · cases h; exact append_fieldNNN h1              -- `ANNN`
  · cases h; exact append_fieldNNN h1              -- `BNNN`
  · cases h; exact append_fieldX_fieldNN h1 rfl    -- `CXNN`
  · cases h; exact append_fieldX_fieldY_fieldN h1 rfl    -- `DXYN`
  · exact encode_of_decodeClassE h1 h
  · exact encode_of_decodeClassF h1 h

/-! ## The rows of the opcode table -/

/-- The opcode table has a row of the instruction's Id that selects the instruction's word. -/
theorem exists_row_of_encode : ∀ i : Instr, Laws.EncodeRow.Statement i
  | .cls => Laws.EncodeRow.cls
  | .ret => Laws.EncodeRow.ret
  | .jp nnn => Laws.EncodeRow.jp nnn
  | .call nnn => Laws.EncodeRow.call nnn
  | .seImm x nn => Laws.EncodeRow.seImm x nn
  | .sneImm x nn => Laws.EncodeRow.sneImm x nn
  | .seReg x y => Laws.EncodeRow.seReg x y
  | .ldImm x nn => Laws.EncodeRow.ldImm x nn
  | .addImm x nn => Laws.EncodeRow.addImm x nn
  | .ldReg x y => Laws.EncodeRow.ldReg x y
  | .orReg x y => Laws.EncodeRow.orReg x y
  | .andReg x y => Laws.EncodeRow.andReg x y
  | .xorReg x y => Laws.EncodeRow.xorReg x y
  | .addReg x y => Laws.EncodeRow.addReg x y
  | .sub x y => Laws.EncodeRow.sub x y
  | .shr x y => Laws.EncodeRow.shr x y
  | .subn x y => Laws.EncodeRow.subn x y
  | .shl x y => Laws.EncodeRow.shl x y
  | .sneReg x y => Laws.EncodeRow.sneReg x y
  | .ldI nnn => Laws.EncodeRow.ldI nnn
  | .jpV0 nnn => Laws.EncodeRow.jpV0 nnn
  | .rnd x nn => Laws.EncodeRow.rnd x nn
  | .drw x y n => Laws.EncodeRow.drw x y n
  | .skp x => Laws.EncodeRow.skp x
  | .sknp x => Laws.EncodeRow.sknp x
  | .ldVxDt x => Laws.EncodeRow.ldVxDt x
  | .ldVxK x => Laws.EncodeRow.ldVxK x
  | .ldDtVx x => Laws.EncodeRow.ldDtVx x
  | .ldStVx x => Laws.EncodeRow.ldStVx x
  | .addI x => Laws.EncodeRow.addI x
  | .ldF x => Laws.EncodeRow.ldF x
  | .ldB x => Laws.EncodeRow.ldB x
  | .stRegs x => Laws.EncodeRow.stRegs x
  | .ldRegs x => Laws.EncodeRow.ldRegs x

theorem OpcodeRow.selects_iff : r.selects w = true ↔ w &&& r.mask = r.pattern := by
  simp [OpcodeRow.selects]

/-- Two rows that select one word agree where their masks overlap. -/
theorem pattern_and_mask_comm (hr : r.selects w = true) (hq : q.selects w = true) :
    r.pattern &&& q.mask = q.pattern &&& r.mask := by
  rw [OpcodeRow.selects_iff] at hr hq
  rw [← hr, ← hq, BitVec.and_assoc, BitVec.and_assoc, BitVec.and_comm r.mask]

/-- Any two rows differ where their masks overlap. -/
theorem opcodeTable_pairwise_differ :
    opcodeTable.Pairwise fun r q => r.pattern &&& q.mask ≠ q.pattern &&& r.mask := by
  decide

theorem eq_singleton_of_selects {rows : List OpcodeRow}
    (hdiff : rows.Pairwise fun r q => r.pattern &&& q.mask ≠ q.pattern &&& r.mask)
    (hsel : ∀ q ∈ rows, q.selects w = true) (hmem : r ∈ rows) : rows = [r] := by
  match rows with
  | [a] => rw [List.mem_singleton.mp hmem]
  | a :: b :: rest =>
    have hab := List.rel_of_pairwise_cons hdiff List.mem_cons_self
    exact absurd (pattern_and_mask_comm (hsel a (by simp)) (hsel b (by simp))) hab

theorem filter_selects_eq_singleton (hmem : r ∈ opcodeTable) (hr : r.selects w = true) :
    opcodeTable.filter (fun q => q.selects w) = [r] :=
  eq_singleton_of_selects (opcodeTable_pairwise_differ.filter _)
    (fun _ hq => (List.mem_filter.mp hq).2) (List.mem_filter.mpr ⟨hmem, hr⟩)

/-! ### The fields of a selected word -/

theorem fieldN1_and (w v : Word) : fieldN1 (w &&& v) = fieldN1 w &&& fieldN1 v :=
  BitVec.extractLsb'_and

theorem fieldN_and (w v : Word) : fieldN (w &&& v) = fieldN w &&& fieldN v :=
  BitVec.extractLsb'_and

theorem fieldNN_and (w v : Word) : fieldNN (w &&& v) = fieldNN w &&& fieldNN v :=
  BitVec.extractLsb'_and

theorem fieldN1_of_selects (hr : r.selects w = true) (hm : fieldN1 r.mask = 0xF) :
    fieldN1 w = fieldN1 r.pattern := by
  rw [← OpcodeRow.selects_iff.mp hr, fieldN1_and, hm]
  exact BitVec.and_allOnes.symm

theorem fieldN_of_selects (hr : r.selects w = true) (hm : fieldN r.mask = 0xF) :
    fieldN w = fieldN r.pattern := by
  rw [← OpcodeRow.selects_iff.mp hr, fieldN_and, hm]
  exact BitVec.and_allOnes.symm

theorem fieldNN_of_selects (hr : r.selects w = true) (hm : fieldNN r.mask = 0xFF) :
    fieldNN w = fieldNN r.pattern := by
  rw [← OpcodeRow.selects_iff.mp hr, fieldNN_and, hm]
  exact BitVec.and_allOnes.symm

/-- Every row covers the major opcode, covers the minor opcode that its class has, and has its
pattern in R53's list. -/
theorem opcodeTable_shapes : ∀ r ∈ opcodeTable, fieldN1 r.mask = 0xF ∧ (
    fieldN1 r.pattern ∈ [0x1, 0x2, 0x3, 0x4, 0x6, 0x7, 0xA, 0xB, 0xC, 0xD] ∨
    (r.mask = 0xFFFF ∧ fieldN1 r.pattern = 0x0 ∧ (r.pattern = 0x00E0 ∨ r.pattern = 0x00EE)) ∨
    (fieldN r.mask = 0xF ∧
      ((fieldN1 r.pattern = 0x5 ∨ fieldN1 r.pattern = 0x9) ∧ fieldN r.pattern = 0x0 ∨
      fieldN1 r.pattern = 0x8 ∧
        fieldN r.pattern ∈ [0x0, 0x1, 0x2, 0x3, 0x4, 0x5, 0x6, 0x7, 0xE])) ∨
    (fieldNN r.mask = 0xFF ∧
      (fieldN1 r.pattern = 0xE ∧ fieldNN r.pattern ∈ [0x9E, 0xA1] ∨
      fieldN1 r.pattern = 0xF ∧
        fieldNN r.pattern ∈ [0x07, 0x0A, 0x15, 0x18, 0x1E, 0x29, 0x33, 0x55, 0x65]))) := by
  decide

theorem listedByNibbles_of_selects (hmem : r ∈ opcodeTable) (hr : r.selects w = true) :
    ListedByNibbles w := by
  obtain ⟨hmask, hshape⟩ := opcodeTable_shapes r hmem
  rw [← fieldN1_of_selects hr hmask] at hshape
  obtain hwide | ⟨hm, hcls⟩ | ⟨hm, hminor⟩ | ⟨hm, hminor⟩ := hshape
  · exact .inl hwide
  · have hw : w = r.pattern := by
      rw [← OpcodeRow.selects_iff.mp hr, hm]
      exact BitVec.and_allOnes.symm
    rw [← hw] at hcls
    exact .inr (.inl hcls)
  · rw [← fieldN_of_selects hr hm] at hminor
    exact .inr (.inr (hminor.imp_right .inl))
  · rw [← fieldNN_of_selects hr hm] at hminor
    exact .inr (.inr (.inr (.inr hminor)))

theorem exists_row_of_decodeClasses (h : decodeClasses w = some i) :
    ∃ r ∈ opcodeTable, r.mnemonic = i.mnemonic ∧ r.selects w = true := by
  have hrow := exists_row_of_encode i
  rwa [Laws.EncodeRow.Statement, encode_of_decodeClasses h] at hrow

theorem filter_selects_eq_nil (h : decodeClasses w = none) :
    opcodeTable.filter (fun q => q.selects w) = [] := by
  refine List.filter_eq_nil_iff.mpr fun r hmem hr => ?_
  obtain ⟨i, hi⟩ := exists_decodeClasses_eq_some_iff.mpr (listedByNibbles_of_selects hmem hr)
  rw [h] at hi
  cases hi

/-! ## The obligation -/

/-- Settles O4: the row of the decoded instruction selects the word and no other row does; a word that
does not decode lies in no class of R53, and a word that some row selects lies in one. -/
theorem everyWordMatchesOneRowOrNone : Obligations.EveryWordMatchesOneRowOrNone := by
  intro w
  constructor
  · cases h : decodeClasses w with
    | some i =>
      obtain ⟨r, hmem, hid, hsel⟩ := exists_row_of_decodeClasses h
      exact .inl ⟨i, r, decode_eq_ok_iff.mpr h, hid, filter_selects_eq_singleton hmem hsel⟩
    | none => exact .inr ⟨decode_of_decodeClasses_none h, filter_selects_eq_nil h⟩
  · simp only [decode_eq_ok_iff]
    exact exists_decodeClasses_eq_some_iff

end Sys2Proof
end

section
/-! PROOFS. Fetch and dispatch (`40_fetch_dispatch.md`): a `Step` on a word that no row of the opcode
table selects (R70). A word that decodes is selected by the row of its instruction, so such a word
does not decode. -/

namespace Sys2Proof.Machine

variable {s : State} {w : Word}

theorem decode_of_no_row_selects (h : (opcodeTable.all fun r => !r.selects w) = true) :
    decode w = .error (.unimplementedOpcode w) := by
  cases hd : decodeClasses w with
  | none => exact decode_of_decodeClasses_none hd
  | some i =>
    obtain ⟨r, hmem, -, hsel⟩ := exists_row_of_decodeClasses hd
    have hnot := List.all_eq_true.mp h r hmem
    simp [hsel] at hnot

/-- Where the fetch lies inside memory, the advance of `PC` (R68) does not wrap. -/
theorem State.toNat_pc_add_two (h : s.pc.toNat + 1 < memSize) :
    (s.pc + 2).toNat = s.pc.toNat + 2 := by
  rw [memSize_eq] at h
  exact BitVec.toNat_add_of_lt (by simp; omega)

/-- Settles O9: the fetched word does not decode, so the `Step` reports it; its second byte lies inside
memory, so the advance does not wrap. -/
theorem unmatchedWordAdvancesAndReports : Obligations.UnmatchedWordAdvancesAndReports := by
  intro s hi lo w hfault hhi hlo hw hrows
  have hword : w = wordOfBytes hi lo :=
    BitVec.eq_of_toNat_eq (hw.trans (toNat_wordOfBytes hi lo).symm)
  have hfetch : s.fetch = some w := s.fetch_eq_some.mpr ⟨hi, lo, hhi, hlo, hword⟩
  have hmem : s.pc.toNat + 1 < memSize := (s.memRead_eq_some.mp hlo).1
  exact ⟨s.reportUnimplemented w,
    step_of_unmatched hfault hfetch (decode_of_no_row_selects hrows), rfl,
    State.toNat_pc_add_two hmem, hfault⟩

end Sys2Proof.Machine
end

section
/-! PROOFS. Control flow (`41_control_flow.md`): the jump (R76) and the four skips that compare registers
(R78 to R81). Each decodes from its own words and writes nothing but `PC`. -/

namespace Sys2Proof

variable (x y : Reg) (nn : Byte) (nnn : Addr12)

/-! ## The words of the jump and of the skips -/

theorem decode_jp : decode (0x1#4 ++ nnn) = .ok (.jp nnn) :=
  decode_eq_ok_iff.mpr (by simp [decodeClasses])

theorem decode_seImm : decode (0x3#4 ++ x ++ nn) = .ok (.seImm x nn) :=
  decode_eq_ok_iff.mpr (by simp [decodeClasses])

theorem decode_sneImm : decode (0x4#4 ++ x ++ nn) = .ok (.sneImm x nn) :=
  decode_eq_ok_iff.mpr (by simp [decodeClasses])

/-- Class 5 has the single minor opcode 0. -/
theorem decodeClasses_class5 (n : Nibble) :
    decodeClasses (0x5#4 ++ x ++ y ++ n) = if n = 0x0#4 then some (.seReg x y) else none := by
  simp [decodeClasses]

/-- Class 9 has the single minor opcode 0. -/
theorem decodeClasses_class9 (n : Nibble) :
    decodeClasses (0x9#4 ++ x ++ y ++ n) = if n = 0x0#4 then some (.sneReg x y) else none := by
  simp [decodeClasses]

theorem decode_seReg : decode (0x5#4 ++ x ++ y ++ 0x0#4) = .ok (.seReg x y) :=
  decode_eq_ok_iff.mpr ((decodeClasses_class5 x y 0x0).trans (if_pos rfl))

theorem decode_sneReg : decode (0x9#4 ++ x ++ y ++ 0x0#4) = .ok (.sneReg x y) :=
  decode_eq_ok_iff.mpr ((decodeClasses_class9 x y 0x0).trans (if_pos rfl))

theorem decode_class5_of_ne_zero {n : Nibble} (hn : n ≠ 0) :
    decode (0x5#4 ++ x ++ y ++ n) = .error (.unimplementedOpcode (0x5#4 ++ x ++ y ++ n)) :=
  decode_of_decodeClasses_none ((decodeClasses_class5 x y n).trans (if_neg hn))

theorem decode_class9_of_ne_zero {n : Nibble} (hn : n ≠ 0) :
    decode (0x9#4 ++ x ++ y ++ n) = .error (.unimplementedOpcode (0x9#4 ++ x ++ y ++ n)) :=
  decode_of_decodeClasses_none ((decodeClasses_class9 x y n).trans (if_neg hn))

end Sys2Proof

namespace Sys2Proof.Machine

variable (s : State)

/-! ## What a jump and a skip do to `PC` and to the rest of the state -/

theorem toNat_immAddr (nnn : Addr12) : (immAddr nnn).toNat = nnn.toNat :=
  BitVec.toNat_setWidth_of_le (by decide)

theorem State.setPc_onlyPcChanges (w : Word) : OnlyPcChanges s (s.setPc w) where
  regs _ := rfl
  i := rfl
  memory _ := rfl
  display _ _ := rfl
  timers := ⟨rfl, rfl⟩
  fault := ⟨rfl, rfl⟩
  host := ⟨rfl, rfl⟩
  random := rfl
  stack := ⟨rfl, rfl⟩

theorem skipIf_onlyPcChanges (q : Bool) : OnlyPcChanges s (skipIf q s) := by
  cases q
  · exact s.setPc_onlyPcChanges s.pc    -- no skip: `PC` keeps its value
  · exact s.setPc_onlyPcChanges _

theorem toNat_pc_skipIf (q : Bool) :
    (skipIf q s).pc.toNat = if q then (s.pc.toNat + 2) % 65536 else s.pc.toNat := by
  cases q
  · rfl
  · exact BitVec.toNat_add s.pc 2#16

/-- A meaning that skips on `p`, said with the same condition on numbers (`q`), as R78 to R81 have it. -/
theorem exists_next_skipIf {p q : Prop} [Decidable p] [Decidable q] (hpq : p ↔ q) :
    ∃ t, (.next (skipIf (decide p) s) : Result) = .next t ∧ OnlyPcChanges s t ∧
      t.pc.toNat = if q then (s.pc.toNat + 2) % 65536 else s.pc.toNat := by
  refine ⟨_, rfl, skipIf_onlyPcChanges s _, ?_⟩
  simp only [toNat_pc_skipIf, decide_eq_true_eq, hpq]

/-! ## The obligations -/

/-- Settles O11: `1NNN` is one write of `PC`. -/
theorem jumpSetsPc : Obligations.JumpSetsPc := by
  intro nnn s
  exact ⟨decode_jp nnn, s.setPc (immAddr nnn), rfl, toNat_immAddr nnn, s.setPc_onlyPcChanges _⟩

/-- Settles O14: both meanings are one `skipIf`, on bytes that agree where their numbers do. -/
theorem skipsComparingWithImmediate : Obligations.SkipsComparingWithImmediate := by
  intro x nn s
  have heq : s.reg x = nn ↔ (s.reg x).toNat = nn.toNat := BitVec.toNat_inj.symm
  exact ⟨decode_seImm x nn, decode_sneImm x nn, exists_next_skipIf s heq,
    exists_next_skipIf s (not_congr heq)⟩

/-- Settles O15: as for the skips on an immediate, and classes 5 and 9 have no minor opcode but 0. -/
theorem skipsComparingRegisters : Obligations.SkipsComparingRegisters := by
  intro x y n s
  have heq : s.reg x = s.reg y ↔ (s.reg x).toNat = (s.reg y).toNat := BitVec.toNat_inj.symm
  exact ⟨decode_seReg x y, decode_sneReg x y,
    fun hn => ⟨decode_class5_of_ne_zero x y hn, decode_class9_of_ne_zero x y hn⟩,
    exists_next_skipIf s heq, exists_next_skipIf s (not_congr heq)⟩

end Sys2Proof.Machine
end

section
/-! PROOFS. Loads and immediate add (`42_load_alu.md` R87 to R89): each decodes from its own words and is
one write of `V[X]`. -/

namespace Sys2Proof

variable (x y : Reg) (nn : Byte)

/-! ## The words of the loads and of the immediate add -/

theorem decode_ldImm : decode (0x6#4 ++ x ++ nn) = .ok (.ldImm x nn) :=
  decode_eq_ok_iff.mpr (by simp [decodeClasses])

theorem decode_addImm : decode (0x7#4 ++ x ++ nn) = .ok (.addImm x nn) :=
  decode_eq_ok_iff.mpr (by simp [decodeClasses])

/-- Class 8 is decided by its minor opcode. -/
theorem decodeClasses_class8 (n : Nibble) :
    decodeClasses (0x8#4 ++ x ++ y ++ n) = decodeClass8 x y n := by
  simp [decodeClasses]

theorem decode_ldReg : decode (0x8#4 ++ x ++ y ++ 0x0#4) = .ok (.ldReg x y) :=
  decode_eq_ok_iff.mpr ((decodeClasses_class8 x y 0x0).trans (if_pos rfl))

end Sys2Proof

namespace Sys2Proof.Machine

variable (s : State)

/-! ## What a write of one register leaves unchanged -/

theorem State.setReg_keepsRegsBut (x : Reg) (b : Byte) : KeepsRegsBut x s (s.setReg x b) :=
  fun _ hr => s.reg_setReg_ne hr b

theorem State.setReg_onlyRegsChange (x : Reg) (b : Byte) : OnlyRegsChange s (s.setReg x b) where
  i := rfl
  pc := rfl
  stack := ⟨rfl, rfl⟩
  memory _ := rfl
  display _ _ := rfl
  timers := ⟨rfl, rfl⟩
  fault := ⟨rfl, rfl⟩
  host := ⟨rfl, rfl⟩
  random := rfl

/-- A meaning that is one write of `V[x]`: the register reads as the byte written, and nothing else
changes. -/
theorem exists_next_setReg (x : Reg) (b : Byte) :
    ∃ t, (.next (s.setReg x b) : Result) = .next t ∧ t.reg x = b ∧ KeepsRegsBut x s t ∧
      OnlyRegsChange s t :=
  ⟨_, rfl, s.reg_setReg_self x b, s.setReg_keepsRegsBut x b, s.setReg_onlyRegsChange x b⟩

/-! ## The obligation -/

/-- Settles O18: the three meanings are one `setReg` each; the sum of two bytes as `BitVec 8` is the sum
of their numbers modulo 256. -/
theorem loadsAndImmediateAdd : Obligations.LoadsAndImmediateAdd := by
  intro x y nn s
  obtain ⟨t, hexec, hsum, hregs, hframe⟩ := exists_next_setReg s x (s.reg x + nn)
  have hmod : (t.reg x).toNat = ((s.reg x).toNat + nn.toNat) % 256 := by
    rw [hsum, BitVec.toNat_add]
  exact ⟨decode_ldImm x nn, decode_addImm x nn, decode_ldReg x y, exists_next_setReg s x nn,
    ⟨t, hexec, hmod, hregs, hframe⟩, exists_next_setReg s x (s.reg y)⟩

end Sys2Proof.Machine
end

section
/-! PROOFS. Index register and memory (`43_index_memory.md` R100, R103 to R105): the load of `I`, and the
stores and the load of a run of bytes at `I`. The run's check comes first (R106), so each of the three
is either one store or one write of the register file followed by the advance of `I`, or a raise. -/

namespace Sys2Proof

variable (x : Reg) (nn : Byte) (nnn : Addr12)

/-! ## The words of the instructions -/

theorem decode_ldI : decode (0xA#4 ++ nnn) = .ok (.ldI nnn) :=
  decode_eq_ok_iff.mpr (by simp [decodeClasses])

/-- Class F is decided by its second byte. -/
theorem decodeClasses_classF : decodeClasses (0xF#4 ++ x ++ nn) = decodeClassF x nn := by
  simp [decodeClasses]

theorem decode_ldB : decode (0xF#4 ++ x ++ 0x33#8) = .ok (.ldB x) :=
  decode_eq_ok_iff.mpr (decodeClasses_classF x 0x33)

theorem decode_stRegs : decode (0xF#4 ++ x ++ 0x55#8) = .ok (.stRegs x) :=
  decode_eq_ok_iff.mpr (decodeClasses_classF x 0x55)

theorem decode_ldRegs : decode (0xF#4 ++ x ++ 0x65#8) = .ok (.ldRegs x) :=
  decode_eq_ok_iff.mpr (decodeClasses_classF x 0x65)

end Sys2Proof

namespace Sys2Proof.Machine

variable (x : Reg) (s : State)

/-! ## Writes of `I` -/

theorem State.setI_onlyIndexChanges (w : Word) : OnlyIndexChanges s (s.setI w) where
  regs _ := rfl
  pc := rfl
  stack := ⟨rfl, rfl⟩
  memory _ := rfl
  display _ _ := rfl
  timers := ⟨rfl, rfl⟩
  fault := ⟨rfl, rfl⟩
  host := ⟨rfl, rfl⟩
  random := rfl

/-- With `INDEX_INC` false the advance of `I` writes to `I` the value it holds. -/
theorem incIndex_eq_setI : incIndex x s = s.setI (incIndex x s).i := by
  unfold incIndex
  split <;> rfl

/-- Where the run of `X + 1` addresses from `s.i` lies inside memory, the advance of `I` at the end of
the instruction does not wrap. -/
theorem toNat_incIndex_i {t : State} (hi : t.i = s.i) (hconfig : t.config = s.config)
    (h : s.i.toNat + x.toNat ≤ 4095) :
    (incIndex x t).i.toNat =
      if s.config.indexInc then s.i.toNat + x.toNat + 1 else s.i.toNat := by
  rw [incIndex_i, hi, hconfig]
  split
  · simp only [BitVec.toNat_add, BitVec.toNat_setWidth, BitVec.toNat_ofNat]
    omega
  · rfl

/-! ## A store or a load of registers, then the advance of `I` -/

theorem State.storeRun_setI_onlyMemoryAndIndexChange (a : Nat) (bs : List Byte) (w : Word) :
    OnlyMemoryAndIndexChange s ((s.storeRun a bs).setI w) where
  regs _ := rfl
  pc := rfl
  stack := ⟨rfl, rfl⟩
  display _ _ := rfl
  timers := ⟨rfl, rfl⟩
  fault := ⟨rfl, rfl⟩
  host := ⟨rfl, rfl⟩
  random := rfl

theorem State.setRegs_setI_onlyRegsAndIndexChange (v : Vector Byte 16) (w : Word) :
    OnlyRegsAndIndexChange s ((s.setRegs v).setI w) where
  pc := rfl
  stack := ⟨rfl, rfl⟩
  memory _ := rfl
  display _ _ := rfl
  timers := ⟨rfl, rfl⟩
  fault := ⟨rfl, rfl⟩
  host := ⟨rfl, rfl⟩
  random := rfl

/-- `FX55` stores register `r` at `I + r`. -/
theorem memRead_storeRun_regRun (hs : MemoryCanonical s) {r : Reg} (hr : r.toNat ≤ x.toNat)
    (hmem : s.i.toNat + x.toNat ≤ 4095) :
    (s.storeRun s.i.toNat (regRun x s)).memRead (s.i.toNat + r.toNat) = some (s.reg r) := by
  have hlen : r.toNat < (regRun x s).length := by
    rw [regRun_length]
    omega
  have hlast : s.i.toNat + r.toNat < memSize := by
    rw [memSize_eq]
    omega
  rw [s.memRead_storeRun_add hs hlen hlast, regRun_get]

/-- The register file `FX65` leaves, in a register up to `X`. -/
theorem reg_setRegs_loadedRegs_of_le {r : Reg} (hr : r.toNat ≤ x.toNat)
    (hmem : s.i.toNat + x.toNat ≤ 4095) :
    some ((s.setRegs (loadedRegs x s)).reg r) = s.memRead (s.i.toNat + r.toNat) := by
  have hlast : s.i.toNat + r.toNat < memSize := by
    rw [memSize_eq]
    omega
  rw [s.memRead_of_lt hlast, State.reg_setRegs, loadedRegs_get, if_pos hr]
  rfl

/-- The register file `FX65` leaves, in a register above `X`. -/
theorem reg_setRegs_loadedRegs_of_gt {r : Reg} (hr : r.toNat > x.toNat) :
    (s.setRegs (loadedRegs x s)).reg r = s.reg r := by
  rw [State.reg_setRegs, loadedRegs_get, if_neg (by omega)]

/-! ## Decimal digits -/

/-- The three digits of a byte fit a byte each, so they are stored as they are. -/
theorem exists_decimalDigits_eq (b : Byte) : ∃ h d o : Byte, decimalDigits b = [h, d, o] ∧
    h.toNat = b.toNat / 100 ∧ d.toNat = b.toNat / 10 % 10 ∧ o.toNat = b.toNat % 10 := by
  have hb := b.isLt
  refine ⟨_, _, _, rfl, ?_, ?_, ?_⟩
  all_goals
    rw [BitVec.toNat_ofNat]
    omega

/-- Three bytes stored inside memory are read back each at its address. -/
theorem State.memRead_storeRun_three (hs : MemoryCanonical s) {a : Nat} (h d o : Byte)
    (hmem : a + 2 < memSize) :
    (s.storeRun a [h, d, o]).memRead a = some h ∧
      (s.storeRun a [h, d, o]).memRead (a + 1) = some d ∧
      (s.storeRun a [h, d, o]).memRead (a + 2) = some o :=
  ⟨s.memRead_storeRun_add hs (j := 0) (by simp) (by omega),
    s.memRead_storeRun_add hs (j := 1) (by simp) (by omega),
    s.memRead_storeRun_add hs (j := 2) (by simp) hmem⟩

/-! ## The two ways a run goes (R106) -/

theorem exec_ldB_of_le (h : s.i.toNat + 2 ≤ 4095) :
    exec (.ldB x) s = .next (s.storeRun s.i.toNat (decimalDigits (s.reg x))) := by
  have hrun : runFault? (baseAddr s) 3 = none := runFault?_eq_none.mpr (.inr (Nat.succ_le_succ h))
  rw [exec, execLdB, hrun]
  rfl

theorem exec_stRegs_of_le (h : s.i.toNat + x.toNat ≤ 4095) :
    exec (.stRegs x) s = .next (incIndex x (s.storeRun s.i.toNat (regRun x s))) := by
  have hrun : runFault? (baseAddr s) (x.toNat + 1) = none :=
    runFault?_eq_none.mpr (.inr (Nat.succ_le_succ h))
  rw [exec, execStRegs, hrun]
  rfl

theorem exec_ldRegs_of_le (h : s.i.toNat + x.toNat ≤ 4095) :
    exec (.ldRegs x) s = .next (incIndex x (s.setRegs (loadedRegs x s))) := by
  have hrun : runFault? (baseAddr s) (x.toNat + 1) = none :=
    runFault?_eq_none.mpr (.inr (Nat.succ_le_succ h))
  rw [exec, execLdRegs, hrun]

/-- The instruction at `a` raises with `PC` at `a + 2`: the condition is reported at `a`. -/
theorem raise_eq_afterFatal {a : Word} (hpc : s.pc = a + 2) (c : Fault) (info : Nat) :
    raise c info s = .next (AfterFatal c info a s) := by
  have ha : s.insnAddr = a := by
    rw [State.insnAddr, hpc]
    exact BitVec.add_sub_cancel a 2#16
  rw [raise_eq, ha]
  rfl

/-- The check of a run whose last address, `base + k`, lies above 4095. -/
theorem runFault?_succ_of_gt {base k : Nat} (h : base + k > 4095) :
    runFault? base (k + 1) = some (max base 4096) :=
  runFault?_eq_some.mpr ⟨k.succ_pos, Nat.succ_lt_succ h, rfl⟩

section
variable {s} {a : Word} (hpc : s.pc = a + 2)
include hpc

theorem exec_ldB_of_gt (h : s.i.toNat + 2 > 4095) :
    exec (.ldB x) s = .next (AfterFatal .addressError (max s.i.toNat 4096) a s) := by
  have hrun : runFault? (baseAddr s) 3 = some (max s.i.toNat 4096) := runFault?_succ_of_gt h
  rw [exec, execLdB, hrun]
  exact raise_eq_afterFatal s hpc _ _

theorem exec_stRegs_of_gt (h : s.i.toNat + x.toNat > 4095) :
    exec (.stRegs x) s = .next (AfterFatal .addressError (max s.i.toNat 4096) a s) := by
  have hrun : runFault? (baseAddr s) (x.toNat + 1) = some (max s.i.toNat 4096) :=
    runFault?_succ_of_gt h
  rw [exec, execStRegs, hrun]
  exact raise_eq_afterFatal s hpc _ _

theorem exec_ldRegs_of_gt (h : s.i.toNat + x.toNat > 4095) :
    exec (.ldRegs x) s = .next (AfterFatal .addressError (max s.i.toNat 4096) a s) := by
  have hrun : runFault? (baseAddr s) (x.toNat + 1) = some (max s.i.toNat 4096) :=
    runFault?_succ_of_gt h
  rw [exec, execLdRegs, hrun]
  exact raise_eq_afterFatal s hpc _ _

end

/-! ## The obligations -/

/-- Settles O24: `ANNN` is one write of `I`. -/
theorem loadIndexSetsI : Obligations.LoadIndexSetsI := by
  intro nnn s
  exact ⟨decode_ldI nnn, s.setI (immAddr nnn), rfl, toNat_immAddr nnn, s.setI_onlyIndexChanges _⟩

/-- Settles O26: inside memory `FX33` is one store of three digits, each read back at its address;
outside it raises. -/
theorem storeDecimalDigits : Obligations.StoreDecimalDigits := by
  intro x s hs
  refine ⟨decode_ldB x, fun hin => ?_, fun hout a hpc => ?_⟩
  · obtain ⟨h, d, o, hdigits, hh, hd, ho⟩ := exists_decimalDigits_eq (s.reg x)
    have hexec := exec_ldB_of_le x s hin
    rw [hdigits] at hexec
    obtain ⟨hreadH, hreadD, hreadO⟩ := s.memRead_storeRun_three hs h d o (Nat.lt_succ_of_le hin)
    exact ⟨_, h, d, o, hexec, hreadH, hreadD, hreadO, hh, hd, ho,
      s.storeRun_keepsMemoryOutside hs s.i.toNat [h, d, o], rfl,
      s.storeRun_setI_onlyMemoryAndIndexChange s.i.toNat [h, d, o] s.i⟩
  · exact ⟨_, exec_ldB_of_gt x hpc hout, rfl, fun _ => rfl⟩

/-- Settles O27: inside memory `FX55` is one store of `V[0]..V[X]`, then the advance of `I`, which
reads no byte differently; outside it raises. -/
theorem storeRegistersInclusive : Obligations.StoreRegistersInclusive := by
  intro x s hs
  refine ⟨decode_stRegs x, fun hin => ?_, fun hout a hpc => ?_⟩
  · refine ⟨_, exec_stRegs_of_le x s hin, fun r hr => ?_, ?_,
      toNat_incIndex_i x s (s.storeRun_i _ _) (s.storeRun_config _ _) hin, ?_⟩
    · rw [incIndex_memRead]
      exact memRead_storeRun_regRun x s hs hr hin
    · intro k hk
      rw [← regRun_length s x] at hk
      rw [incIndex_memRead]
      exact s.storeRun_keepsMemoryOutside hs _ _ k hk
    · rw [incIndex_eq_setI]
      exact s.storeRun_setI_onlyMemoryAndIndexChange _ _ _
  · exact ⟨_, exec_stRegs_of_gt x hpc hout, rfl, fun _ => rfl, rfl⟩

/-- Settles O28: inside memory `FX65` is one write of the register file, then the advance of `I`, which
changes no register; outside it raises. -/
theorem loadRegistersInclusive : Obligations.LoadRegistersInclusive := by
  intro x s
  refine ⟨decode_ldRegs x, fun hin => ?_, fun hout a hpc => ?_⟩
  · refine ⟨_, exec_ldRegs_of_le x s hin, fun r hr => ?_, fun r hr => ?_,
      toNat_incIndex_i x s (s.setRegs_i _) (s.setRegs_config _) hin, ?_⟩
    · rw [incIndex_reg]
      exact reg_setRegs_loadedRegs_of_le x s hr hin
    · rw [incIndex_reg]
      exact reg_setRegs_loadedRegs_of_gt x s hr
    · rw [incIndex_eq_setI]
      exact s.setRegs_setI_onlyRegsAndIndexChange _ _
  · exact ⟨_, exec_ldRegs_of_gt x hpc hout, rfl, fun _ => rfl, rfl⟩

end Sys2Proof.Machine
end

section
/-! PROOFS. The display (`44_display.md`): the clear (R110) decodes from its one word and is one write of
the whole screen. -/

namespace Sys2Proof

theorem decode_cls : decode 0x00E0#16 = .ok .cls := by decide

end Sys2Proof

namespace Sys2Proof.Machine

variable (s : State)

/-! ## What a write of the screen leaves unchanged -/

theorem State.setFb_keepsRegs (fb : Screen) : KeepsRegs s (s.setFb fb) :=
  s.setFb_reg fb

theorem State.setFb_onlyDisplayAndRegsChange (fb : Screen) :
    OnlyDisplayAndRegsChange s (s.setFb fb) where
  i := rfl
  pc := rfl
  stack := ⟨rfl, rfl⟩
  memory _ := rfl
  timers := ⟨rfl, rfl⟩
  fault := ⟨rfl, rfl⟩
  host := ⟨rfl, rfl⟩
  random := rfl

/-! ## The meaning of the clear -/

theorem exec_cls : exec .cls s = .next (s.setFb blankScreen) := rfl

/-! ## The obligation -/

/-- Settles O32: the clear is one write of the blank screen, every cell of which reads 0. -/
theorem clearBlanksDisplay : Obligations.ClearBlanksDisplay := by
  intro s
  exact ⟨decode_cls, s.setFb blankScreen, exec_cls s, Screen.cell_blank,
    s.setFb_keepsRegs blankScreen, s.setFb_onlyDisplayAndRegsChange blankScreen⟩

end Sys2Proof.Machine
end

section
/-! PROOFS. The timers (`45_keys_timers.md` R118 to R120): `FX07` is one write of a general register,
`FX15` and `FX18` are one write each of the timer they name. -/

namespace Sys2Proof

variable (x : Reg)

/-! ## The words of the instructions -/

theorem decode_ldVxDt : decode (0xF#4 ++ x ++ 0x07#8) = .ok (.ldVxDt x) :=
  decode_eq_ok_iff.mpr (decodeClasses_classF x 0x07)

theorem decode_ldDtVx : decode (0xF#4 ++ x ++ 0x15#8) = .ok (.ldDtVx x) :=
  decode_eq_ok_iff.mpr (decodeClasses_classF x 0x15)

theorem decode_ldStVx : decode (0xF#4 ++ x ++ 0x18#8) = .ok (.ldStVx x) :=
  decode_eq_ok_iff.mpr (decodeClasses_classF x 0x18)

end Sys2Proof

namespace Sys2Proof.Machine

variable (x : Reg) (s : State)

/-! ## What a write of one timer leaves unchanged -/

theorem State.setDt_onlyTimersChange (b : Byte) : OnlyTimersChange s (s.setDt b) where
  regs := s.setDt_reg b
  i := rfl
  pc := rfl
  stack := ⟨rfl, rfl⟩
  memory _ := rfl
  display _ _ := rfl
  fault := ⟨rfl, rfl⟩
  host := ⟨rfl, rfl⟩
  random := rfl

theorem State.setSt_onlyTimersChange (b : Byte) : OnlyTimersChange s (s.setSt b) where
  regs := s.setSt_reg b
  i := rfl
  pc := rfl
  stack := ⟨rfl, rfl⟩
  memory _ := rfl
  display _ _ := rfl
  fault := ⟨rfl, rfl⟩
  host := ⟨rfl, rfl⟩
  random := rfl

/-! ## The meanings of the three instructions -/

theorem exec_ldVxDt : exec (.ldVxDt x) s = .next (s.setReg x s.dt) := rfl

theorem exec_ldDtVx : exec (.ldDtVx x) s = .next (s.setDt (s.reg x)) := rfl

theorem exec_ldStVx : exec (.ldStVx x) s = .next (s.setSt (s.reg x)) := rfl

/-! ## The obligation -/

/-- Settles O38: each of the three is one write of the byte it copies, and a write of one timer keeps
the other. -/
theorem timerInstructions : Obligations.TimerInstructions := by
  intro x s
  refine ⟨decode_ldVxDt x, decode_ldDtVx x, decode_ldStVx x, ?_, ?_, ?_⟩
  · rw [exec_ldVxDt]
    exact exists_next_setReg s x s.dt
  · exact ⟨_, exec_ldDtVx x s, s.setDt_dt _, s.setDt_st _, s.setDt_onlyTimersChange _⟩
  · exact ⟨_, exec_ldStVx x s, s.setSt_st _, s.setSt_dt _, s.setSt_onlyTimersChange _⟩

end Sys2Proof.Machine
end

section
/-! PROOFS. The host's transactions (`60_exceptions.md`): what a run does to each timer (R143), and what
`ReadSoundActive` and `ReadDisplay` report (R144, R147). -/

namespace Sys2Proof.Machine

variable {s t : State}

/-! ## Who writes the timers -/

/-- `FX15` is the only instruction that writes `DT`. -/
theorem delay_mem_stepWrites {inc : Bool} {i : Instr} (h : .delay ∈ stepWrites inc i) :
    ∃ x, i = .ldDtVx x := by
  cases i
  case ldDtVx x => exact ⟨x, rfl⟩
  case stRegs => simp [mem_stepWrites_stRegs] at h
  case ldRegs => simp [mem_stepWrites_ldRegs] at h
  all_goals simp [stepWrites] at h

/-- `FX18` is the only instruction that writes `ST`. -/
theorem sound_mem_stepWrites {inc : Bool} {i : Instr} (h : .sound ∈ stepWrites inc i) :
    ∃ x, i = .ldStVx x := by
  cases i
  case ldStVx x => exact ⟨x, rfl⟩
  case stRegs => simp [mem_stepWrites_stRegs] at h
  case ldRegs => simp [mem_stepWrites_ldRegs] at h
  all_goals simp [stepWrites] at h

/-- A timer changes only in a `Reset`, in a tick, or in a `Step` that runs an instruction that writes
it. -/
theorem timer_same_of_transact {p : Piece} (hp : p = .delay ∨ p = .sound) {x : Transaction}
    {r : Response} (hreset : x ≠ .reset) (htick : x ≠ .tickTimers)
    (hrun : x = .step → ∀ i, RunsNext s i → p ∉ stepWrites s.config.indexInc i)
    (h : transact x s = .next (r, t)) : p.Same s t := by
  by_contra hchanged
  have hw : MayWrite x s p := (transact_changesOnly h).allowed p hchanged
  cases x
  case reset => exact hreset rfl
  case tickTimers => exact htick rfl
  case step =>
    rcases hw with ⟨rfl, -⟩ | ⟨rfl, -⟩ | ⟨i, hi, hmem⟩
    · simp at hp
    · simp at hp
    · exact hrun rfl i hi hmem
  case load | setKey =>
    cases hw
    simp at hp
  case readDisplay | readSoundActive => exact hw

/-! ## A run counts its ticks -/

/-- A byte that a tick takes down by one, and that no transaction but `Reset` and a tick changes unless
it runs a `bad` instruction, goes down by one for each tick of a run. -/
theorem runTransactions_countsDown {f : State → Byte} {bad : Instr → Prop}
    (htick : ∀ {s t r}, transact .tickTimers s = .next (r, t) → (f t).toNat = (f s).toNat - 1)
    (hkeep : ∀ {x s t r}, x ≠ .reset → x ≠ .tickTimers →
      (x = .step → ∀ i, RunsNext s i → ¬ bad i) → transact x s = .next (r, t) → f t = f s)
    (xs : List Transaction) {s t : State} {rs : List Response} (hreset : .reset ∉ xs)
    (hbad : NeverRuns bad xs s) (h : runTransactions xs s = .next (rs, t)) :
    (f t).toNat = (f s).toNat - xs.count .tickTimers := by
  induction xs generalizing s rs with
  | nil =>
    cases h
    rfl
  | cons x xs ih =>
    obtain ⟨r, rs, u, hx, hxs, -⟩ := runTransactions_cons_inv s h
    obtain ⟨hne, hreset⟩ := List.ne_and_not_mem_of_not_mem_cons hreset
    obtain ⟨hbad, hbads⟩ := hbad
    have hrest := ih hreset (hbads r u hx) hxs
    by_cases hxt : x = .tickTimers
    · subst hxt
      rw [hrest, htick hx, List.count_cons_self]
      omega
    · rw [hrest, hkeep (Ne.symm hne) hxt hbad hx, List.count_cons_of_ne hxt]

/-- Settles O40: one tick by `tickTimers_toNat`; a run by `runTransactions_countsDown`, once for each
timer and the one instruction that writes it. -/
theorem ticksCountDownAndClamp : Obligations.TicksCountDownAndClamp := by
  refine ⟨fun s => ?_, fun xs s t rs hreset h => ⟨fun hbad => ?_, fun hbad => ?_⟩⟩
  · obtain ⟨hdt, hst⟩ := tickTimers_toNat (s := s) rfl
    exact ⟨s.tickTimers, rfl, hdt, hst, rfl⟩
  · exact runTransactions_countsDown (f := State.dt) (fun hx => (tickTimers_toNat hx).1)
      (fun hr ht hn => timer_same_of_transact (.inl rfl) hr ht
        fun hx i hi hmem => hn hx i hi (delay_mem_stepWrites hmem)) xs hreset hbad h
  · exact runTransactions_countsDown (f := State.st) (fun hx => (tickTimers_toNat hx).2)
      (fun hr ht hn => timer_same_of_transact (.inr rfl) hr ht
        fun hx i hi hmem => hn hx i hi (sound_mem_stepWrites hmem)) xs hreset hbad h

/-! ## What the reads report -/

/-- `ReadSoundActive` tells whether `ST` is a nonzero number (R144). -/
theorem State.readSoundActive_eq (s : State) : s.readSoundActive = decide (s.st.toNat ≠ 0) :=
  decide_eq_decide.mpr (not_congr s.st.toNat_inj.symm)

/-- `ReadDisplay` as one row-major list: cell `k` is column `k % 64` of row `k / 64` (R147,
`10_state.md` R17). -/
theorem State.readDisplay_eq_ofFn (s : State) :
    s.readDisplay = List.ofFn fun k : Fin (32 * 64) => Screen.cell s.fb k.modNat k.divNat := by
  have hk (y : Fin 32) (x : Fin 64) (h : y.val * 64 + x.val < 32 * 64) :
      (⟨y.val * 64 + x.val, h⟩ : Fin (32 * 64)) = Fin.mkDivMod y x :=
    Fin.ext (congrArg (· + x.val) (Nat.mul_comm y.val 64))
  simp only [State.readDisplay, List.flatMap_def, List.ofFn_mul, List.ofFn_eq_map, hk,
    Fin.modNat_mkDivMod, Fin.divNat_mkDivMod]

theorem State.length_readDisplay (s : State) : s.readDisplay.length = 2048 := by
  rw [s.readDisplay_eq_ofFn, List.length_ofFn]

theorem State.readDisplay_getElem? (s : State) (x : Fin 64) (y : Fin 32) :
    s.readDisplay[64 * y.val + x.val]? = some (Screen.cell s.fb x y) := by
  rw [s.readDisplay_eq_ofFn, ← Fin.coe_mkDivMod y x, List.getElem?_ofFn,
    dif_pos (Fin.mkDivMod y x).isLt, Fin.eta, Fin.modNat_mkDivMod, Fin.divNat_mkDivMod]

/-- Settles O41: each read leaves the state alone and reports what the lemmas above say. -/
theorem readsReportAndChangeNothing : Obligations.ReadsReportAndChangeNothing := by
  intro s
  refine ⟨?_, s.readDisplay, rfl, s.length_readDisplay, s.readDisplay_getElem?⟩
  rw [← s.readSoundActive_eq]
  rfl

end Sys2Proof.Machine
end

section
/-! PROOFS. Encoding (`30_encoding.md` section 4): decoding and encoding are inverse to each other.
The major opcode of a word selects its class, and within a class the minor opcode its row (R53,
R54). -/

namespace Sys2Proof

variable (x y : Reg) (n : Nibble) (nn : Byte) (nnn : Addr12)

/-! ## The words of the instructions that have no lemma above -/

theorem decode_ret : decode 0x00EE#16 = .ok .ret := by decide

theorem decode_call : decode (0x2#4 ++ nnn) = .ok (.call nnn) :=
  decode_eq_ok_iff.mpr (by simp [decodeClasses])

theorem decode_jpV0 : decode (0xB#4 ++ nnn) = .ok (.jpV0 nnn) :=
  decode_eq_ok_iff.mpr (by simp [decodeClasses])

theorem decode_rnd : decode (0xC#4 ++ x ++ nn) = .ok (.rnd x nn) :=
  decode_eq_ok_iff.mpr (by simp [decodeClasses])

theorem decode_drw : decode (0xD#4 ++ x ++ y ++ n) = .ok (.drw x y n) :=
  decode_eq_ok_iff.mpr (by simp [decodeClasses])

/-- Class E is decided by its second byte. -/
theorem decodeClasses_classE : decodeClasses (0xE#4 ++ x ++ nn) = decodeClassE x nn := by
  simp [decodeClasses]

/-- A word of class 8 decodes to the instruction of its minor opcode. -/
theorem decode_class8 {n : Nibble} {i : Instr} (h : decodeClass8 x y n = some i) :
    decode (0x8#4 ++ x ++ y ++ n) = .ok i :=
  decode_eq_ok_iff.mpr ((decodeClasses_class8 x y n).trans h)

/-- A word of class E decodes to the instruction of its second byte. -/
theorem decode_classE {nn : Byte} {i : Instr} (h : decodeClassE x nn = some i) :
    decode (0xE#4 ++ x ++ nn) = .ok i :=
  decode_eq_ok_iff.mpr ((decodeClasses_classE x nn).trans h)

/-- A word of class F decodes to the instruction of its second byte. -/
theorem decode_classF {nn : Byte} {i : Instr} (h : decodeClassF x nn = some i) :
    decode (0xF#4 ++ x ++ nn) = .ok i :=
  decode_eq_ok_iff.mpr ((decodeClasses_classF x nn).trans h)

/-! ## Every instruction -/

/-- The decoder reads every instruction back from its word. -/
theorem decode_encode : ∀ i : Instr, decode (encode i) = .ok i
  | .cls => decode_cls
  | .ret => decode_ret
  | .jp nnn => decode_jp nnn
  | .call nnn => decode_call nnn
  | .seImm x nn => decode_seImm x nn
  | .sneImm x nn => decode_sneImm x nn
  | .seReg x y => decode_seReg x y
  | .ldImm x nn => decode_ldImm x nn
  | .addImm x nn => decode_addImm x nn
  | .ldReg x y => decode_ldReg x y
  | .orReg x y => decode_class8 x y (n := 0x1) rfl
  | .andReg x y => decode_class8 x y (n := 0x2) rfl
  | .xorReg x y => decode_class8 x y (n := 0x3) rfl
  | .addReg x y => decode_class8 x y (n := 0x4) rfl
  | .sub x y => decode_class8 x y (n := 0x5) rfl
  | .shr x y => decode_class8 x y (n := 0x6) rfl
  | .subn x y => decode_class8 x y (n := 0x7) rfl
  | .shl x y => decode_class8 x y (n := 0xE) rfl
  | .sneReg x y => decode_sneReg x y
  | .ldI nnn => decode_ldI nnn
  | .jpV0 nnn => decode_jpV0 nnn
  | .rnd x nn => decode_rnd x nn
  | .drw x y n => decode_drw x y n
  | .skp x => decode_classE x (nn := 0x9E) rfl
  | .sknp x => decode_classE x (nn := 0xA1) rfl
  | .ldVxDt x => decode_ldVxDt x
  | .ldVxK x => decode_classF x (nn := 0x0A) rfl
  | .ldDtVx x => decode_ldDtVx x
  | .ldStVx x => decode_ldStVx x
  | .addI x => decode_classF x (nn := 0x1E) rfl
  | .ldF x => decode_classF x (nn := 0x29) rfl
  | .ldB x => decode_ldB x
  | .stRegs x => decode_stRegs x
  | .ldRegs x => decode_ldRegs x

/-! ## The obligations -/

/-- Settles O2: `decode_encode` for the word, and the bytes of an instruction are those of its word.
-/
theorem decodeOfEncodeIsTheInstruction : Obligations.DecodeOfEncodeIsTheInstruction := by
  intro i rest
  refine ⟨decode_encode i, ?_⟩
  rw [decodeBytes_encodeBytes, decode_encode]
  rfl

/-- Settles O3: within its class every field of a word is an operand or is fixed by the row. -/
theorem encodeOfDecodeIsTheWord : Obligations.EncodeOfDecodeIsTheWord :=
  fun _ _ h => encode_of_decodeClasses (decode_eq_ok_iff.mp h)

/-- Settles O1: seven of the words are encodings, and the last is of class 5 with `N = 1`. -/
theorem tableWordsDecode : Obligations.TableWordsDecode :=
  ⟨decode_encode .cls, decode_encode (.call 0x300), decode_encode (.ldImm 0xA 0x7F),
    decode_encode (.sub 0x2 0x3), decode_encode (.drw 0x0 0x1 0x2), decode_encode (.skp 0x1),
    decode_encode (.stRegs 0x3), decode_class5_of_ne_zero 0x1 0x2 (n := 0x1) (by decide)⟩

end Sys2Proof
end

section
/-! PROOFS. Fetch and dispatch (`40_fetch_dispatch.md`): a `Step` of a halted machine (R66), a fetch
outside memory (R67) and the run of a fetched instruction (R68, R71). -/

namespace Sys2Proof.Machine

variable {s : State}

/-- The first of the two bytes at `PC` that lies above 4095, where one does. -/
theorem max_memSize_of_ge {a : Nat} (h : a ≥ 4095) :
    max a 4096 = if a = 4095 then 4096 else a := by
  split <;> omega

/-- A `Step` whose two bytes at `PC` encode an instruction runs it in the state with `PC` advanced.
-/
theorem step_of_fetch_encode {i : Instr} (h : s.fault = none) (hf : s.fetch = some (encode i)) :
    step s = exec i s.advance :=
  step_of_instr h hf (decode_encode i)

/-- Settles O5: the halt check comes first. -/
theorem haltedStepChangesNothing : Obligations.HaltedStepChangesNothing :=
  fun _ _ h => step_of_fault h

/-- Settles O6: with `PC` at 4095 or above the second byte lies outside memory, and with `PC` above
4095 the first one. -/
theorem fetchOutsideMemoryFaults : Obligations.FetchOutsideMemoryFaults := by
  intro s hs hpc
  have hf : s.fetch = none := s.fetch_of_ge (Nat.succ_le_succ hpc)
  rw [step_of_fetch_none hs hf, State.fetchFault, max_memSize_of_ge hpc]
  rfl

/-- Settles O8: the two bytes are the fetched word, and both lie inside memory, so `PC + 2` is at
most 4096. -/
theorem stepRunsDecodedInstruction : Obligations.StepRunsDecodedInstruction := by
  intro s hi lo i hs hhi hlo hd
  have hf : s.fetch = some (wordOfBytes hi lo) := s.fetch_eq_some.mpr ⟨hi, lo, hhi, hlo, rfl⟩
  exact ⟨step_of_instr hs hf hd, State.toNat_pc_add_two (s.memRead_eq_some.mp hlo).1⟩

end Sys2Proof.Machine
end

section
/-! PROOFS. Control flow (`41_control_flow.md`): the call (R77), the return (R75), the indexed jump
(R82) and the jump to itself (R76). -/

namespace Sys2Proof.Machine

variable {s : State} {a : Word}

/-! ## The two ways a call and a return go -/

/-- While the instruction at `a` executes, `PC` is `a + 2`. -/
theorem State.insnAddr_of_pc (hpc : s.pc = a + 2) : s.insnAddr = a := by
  rw [State.insnAddr, hpc]
  exact BitVec.add_sub_cancel a 2#16

theorem exec_call_of_lt (nnn : Addr12) (h : s.sp.val < 16) :
    exec (.call nnn) s = .next (({ s with
      stack := s.stack.set s.sp.val s.pc h, sp := ⟨s.sp.val + 1, by omega⟩ } : State).setPc
        (immAddr nnn)) := by
  rw [exec, execCall, s.push?_of_lt s.pc h]

theorem exec_call_of_full (nnn : Addr12) (hpc : s.pc = a + 2) (h : s.sp.val = 16) :
    exec (.call nnn) s = .next (AfterFatal .stackOverflow a.toNat a s) := by
  rw [exec, execCall, s.push?_of_full s.pc h, State.insnAddr_of_pc hpc]
  exact raise_eq_afterFatal s hpc _ _

theorem exec_ret_of_pos (h : 0 < s.sp.val) :
    exec .ret s = .next (({ s with sp := ⟨s.sp.val - 1, by omega⟩ } : State).setPc
      (s.stack[s.sp.val - 1]'(by omega))) := by
  rw [exec, execRet, s.pop?_of_pos h]

theorem exec_ret_of_empty (hpc : s.pc = a + 2) (h : s.sp.val = 0) :
    exec .ret s = .next (AfterFatal .stackUnderflow a.toNat a s) := by
  rw [exec, execRet, s.pop?_of_empty h, State.insnAddr_of_pc hpc]
  exact raise_eq_afterFatal s hpc _ _

/-- A write of the call stack and of `PC` leaves everything else. -/
theorem State.callStack_setPc_onlyControlChanges (s : State) (k : Vector Word 16) (n : Fin 17)
    (w : Word) : OnlyControlChanges s (({ s with stack := k, sp := n } : State).setPc w) where
  regs _ := rfl
  i := rfl
  memory _ := rfl
  display _ _ := rfl
  timers := ⟨rfl, rfl⟩
  fault := ⟨rfl, rfl⟩
  host := ⟨rfl, rfl⟩
  random := rfl

/-! ## The indexed jump -/

theorem toNat_zext16 (b : Byte) : (zext16 b).toNat = b.toNat :=
  BitVec.toNat_setWidth_of_le (by decide)

/-- The sum of a byte and a 12-bit address fits 16 bits. -/
theorem toNat_zext16_add_immAddr (b : Byte) (nnn : Addr12) :
    (zext16 b + immAddr nnn).toNat = b.toNat + nnn.toNat := by
  rw [BitVec.toNat_add, toNat_zext16, toNat_immAddr]
  omega

/-! ## The obligations -/

/-- Settles O12: a call with room is one push and one write of `PC`; with `SP = 16` it raises. -/
theorem callPushesReturnAddress : Obligations.CallPushesReturnAddress := by
  intro nnn s
  refine ⟨decode_call nnn, fun h => ?_, fun h a hpc => exec_call_of_full nnn hpc h⟩
  refine ⟨_, exec_call_of_lt nnn h, toNat_immAddr nnn, rfl, ?_, fun j hj => ?_,
    s.callStack_setPc_onlyControlChanges _ _ _⟩
  · exact Vector.getElem?_set_self h
  · exact Vector.getElem?_set_ne h hj.symm

/-- Settles O13: a return with `SP > 0` is one pop and one write of `PC`; with `SP = 0` it raises.
-/
theorem returnPopsReturnAddress : Obligations.ReturnPopsReturnAddress := by
  intro s
  refine ⟨decode_ret, fun h => ?_, fun h a hpc => exec_ret_of_empty hpc h⟩
  refine ⟨_, exec_ret_of_pos h, Nat.sub_add_cancel h, ?_, rfl,
    s.callStack_setPc_onlyControlChanges s.stack _ _⟩
  have hslot : s.sp.val - 1 < 16 := by omega
  exact Vector.getElem?_eq_getElem hslot

/-- Settles O16: `BNNN` is one write of `PC` with a sum that does not wrap. -/
theorem indexedJumpAddsV0 : Obligations.IndexedJumpAddsV0 := by
  intro nnn s
  exact ⟨decode_jpV0 nnn, _, rfl, toNat_zext16_add_immAddr _ nnn, s.setPc_onlyPcChanges _⟩

/-- Settles O17: the slot the return pops is the one the call pushed, and neither touches a slot
below it. -/
theorem returnAfterCallResumes : Obligations.ReturnAfterCallResumes := by
  intro nnn s t u h hcall hsp hstack
  rw [exec_call_of_lt nnn h] at hcall
  injection hcall with hcall
  subst hcall
  have husp : u.sp.val = s.sp.val + 1 := congrArg Fin.val hsp
  have hustack : u.stack = s.stack.set s.sp.val s.pc h := hstack
  refine ⟨_, exec_ret_of_pos (by omega), ?_, Fin.ext ?_, fun j hj => ?_⟩
  · simp [husp, hustack]
  · simp [husp]
  · simp only [State.setPc_stack, hustack]
    exact Vector.getElem?_set_ne h (by omega)

/-- Settles O39: the jump writes `PC` with the value it had before the advance. -/
theorem selfJumpChangesNothing : Obligations.SelfJumpChangesNothing := by
  intro nnn s hs hpc hf
  have himm : immAddr nnn = s.pc := BitVec.eq_of_toNat_eq ((toNat_immAddr nnn).trans hpc.symm)
  rw [step_of_fetch_encode hs hf, exec, execJp, himm]
  rfl

end Sys2Proof.Machine
end

section
/-! PROOFS. Arithmetic, logic, shifts and random (`42_load_alu.md` R90 to R98): each instruction
writes a result to `V[X]`, and those of R85 a flag to VF after it (R86). -/

namespace Sys2Proof.Machine

variable (s : State) (x y : Reg)

/-! ## A result and a flag -/

theorem toNat_flagByte (p : Bool) : (flagByte p).toNat = p.toNat := by
  cases p <;> rfl

/-- A flag said as a condition on numbers. -/
theorem toNat_flagByte_decide (p : Prop) [Decidable p] :
    (flagByte (decide p)).toNat = if p then 1 else 0 := by
  rw [toNat_flagByte]
  split <;> simp [*]

theorem State.setRegFlag_onlyRegsChange (b : Byte) (p : Bool) :
    OnlyRegsChange s (s.setRegFlag x b p) where
  i := rfl
  pc := rfl
  stack := ⟨rfl, rfl⟩
  memory _ := rfl
  display _ _ := rfl
  timers := ⟨rfl, rfl⟩
  fault := ⟨rfl, rfl⟩
  host := ⟨rfl, rfl⟩
  random := rfl

theorem State.setRegFlag_keepsRegsButFlag (b : Byte) (p : Bool) :
    KeepsRegsButFlag x s (s.setRegFlag x b p) := by
  intro r hx hflag
  rw [State.reg_setRegFlag, if_neg hflag, if_neg hx]

/-- A meaning that is one `setRegFlag`: with `X = 0xF` the flag is what remains. -/
theorem exists_next_setRegFlag (b : Byte) (p : Bool) :
    ∃ t, (.next (s.setRegFlag x b p) : Result) = .next t ∧ (x ≠ VF → t.reg x = b) ∧
      t.reg VF = flagByte p ∧ KeepsRegsButFlag x s t ∧ OnlyRegsChange s t := by
  refine ⟨_, rfl, fun hx => ?_, ?_, s.setRegFlag_keepsRegsButFlag x b p,
    s.setRegFlag_onlyRegsChange x b p⟩
  · rw [State.reg_setRegFlag, if_neg hx, if_pos rfl]
  · rw [State.reg_setRegFlag, if_pos rfl]

/-! ## Results and flags as numbers -/

/-- The difference of two bytes is that of their numbers modulo 256. -/
theorem toNat_sub_eq_emod (a b : Byte) :
    ((a - b).toNat : Int) = (a.toNat - b.toNat : Int) % 256 := by
  have ha := a.isLt
  have hb := b.isLt
  rw [BitVec.toNat_sub]
  omega

/-- A meaning that subtracts, as R94 and R96 say it of the minuend `a` and the subtrahend `b`. -/
theorem exists_next_subtraction (a b : Byte) :
    ∃ t, (.next (s.setRegFlag x (a - b) (noBorrowFlag a b)) : Result) = .next t ∧
      (x ≠ VF → ((t.reg x).toNat : Int) = (a.toNat - b.toNat : Int) % 256) ∧
      (t.reg VF).toNat = (if a.toNat ≥ b.toNat then 1 else 0) ∧
      KeepsRegsButFlag x s t ∧ OnlyRegsChange s t := by
  obtain ⟨t, ht, hres, hflag, hregs, hframe⟩ :=
    exists_next_setRegFlag s x (a - b) (noBorrowFlag a b)
  refine ⟨t, ht, fun hx => ?_, ?_, hregs, hframe⟩
  · rw [hres hx, toNat_sub_eq_emod]
  · rw [hflag, noBorrowFlag, toNat_flagByte_decide]

/-- The bit a right shift drops is the byte's remainder by 2. -/
theorem toNat_shiftedOutRight (b : Byte) : (shiftedOutRight b).toNat = b.toNat % 2 := by
  rw [shiftedOutRight, BitVec.getLsbD, Nat.toNat_testBit, pow_zero, Nat.div_one]

/-- The bit a left shift drops is the byte's quotient by 128. -/
theorem toNat_shiftedOutLeft (b : Byte) : (shiftedOutLeft b).toNat = b.toNat / 128 := by
  have hb := b.isLt
  rw [shiftedOutLeft, BitVec.getLsbD, Nat.toNat_testBit]
  omega

/-- The operand of a shift as a number (R95). -/
theorem toNat_shiftSource : (shiftSource x y s).toNat =
    if s.config.shiftSrcVY then (s.reg y).toNat else (s.reg x).toNat := by
  unfold shiftSource
  split <;> rfl

/-! ## The obligations -/

/-- Settles O19: each of the three is one write of `V[X]`, and the bitwise operators of `BitVec`
work bit by bit. -/
theorem logicInstructionsAreBitwise : Obligations.LogicInstructionsAreBitwise := by
  intro x y s
  refine ⟨?_, ?_, ?_⟩
  · obtain ⟨t, hexec, hres, hregs, hframe⟩ := exists_next_setReg s x (s.reg x ||| s.reg y)
    exact ⟨t, hexec, hregs, hframe, fun k => by rw [hres, BitVec.getLsbD_or]⟩
  · obtain ⟨t, hexec, hres, hregs, hframe⟩ := exists_next_setReg s x (s.reg x &&& s.reg y)
    exact ⟨t, hexec, hregs, hframe, fun k => by rw [hres, BitVec.getLsbD_and]⟩
  · obtain ⟨t, hexec, hres, hregs, hframe⟩ := exists_next_setReg s x (s.reg x ^^^ s.reg y)
    exact ⟨t, hexec, hregs, hframe, fun k => by rw [hres, BitVec.getLsbD_xor]⟩

/-- Settles O20: the sum of two bytes is that of their numbers modulo 256. -/
theorem addSetsCarry : Obligations.AddSetsCarry := by
  intro x y s
  obtain ⟨t, hexec, hres, hflag, hregs, hframe⟩ :=
    exists_next_setRegFlag s x (s.reg x + s.reg y) (carryFlag (s.reg x) (s.reg y))
  refine ⟨t, hexec, fun hx => ?_, ?_, hregs, hframe⟩
  · rw [hres hx, BitVec.toNat_add]
  · rw [hflag, carryFlag, toNat_flagByte_decide]

/-- Settles O21: `8XY7` is `8XY5` with the operands exchanged. -/
theorem subtractionsSetNoBorrow : Obligations.SubtractionsSetNoBorrow := by
  intro x y s
  exact ⟨exists_next_subtraction s x (s.reg x) (s.reg y),
    exists_next_subtraction s x (s.reg y) (s.reg x)⟩

/-- Settles O22: a shift by one bit halves or doubles its source, and the bit it drops is the
remainder by 2 or the quotient by 128. -/
theorem shiftsMoveOneBit : Obligations.ShiftsMoveOneBit := by
  intro x y s src hsrc
  rw [← toNat_shiftSource] at hsrc
  refine ⟨?_, ?_⟩
  · obtain ⟨t, hexec, hres, hflag, hregs, hframe⟩ := exists_next_setRegFlag s x
      (shiftSource x y s >>> 1) (shiftedOutRight (shiftSource x y s))
    refine ⟨t, hexec, fun hx => ?_, ?_, hregs, hframe⟩
    · rw [hres hx, hsrc, BitVec.toNat_ushiftRight, Nat.shiftRight_one]
    · rw [hflag, toNat_flagByte, hsrc, toNat_shiftedOutRight]
  · obtain ⟨t, hexec, hres, hflag, hregs, hframe⟩ := exists_next_setRegFlag s x
      (shiftSource x y s <<< 1) (shiftedOutLeft (shiftSource x y s))
    refine ⟨t, hexec, fun hx => ?_, ?_, hregs, hframe⟩
    · rw [hres hx, hsrc, BitVec.toNat_shiftLeft, Nat.shiftLeft_eq]
    · rw [hflag, toNat_flagByte, hsrc, toNat_shiftedOutLeft]

/-- Settles O23: the meaning takes one byte of the source, masks it and writes `V[X]`. -/
theorem randomIsMaskedDraw : Obligations.RandomIsMaskedDraw := by
  intro x nn s
  obtain ⟨t, hexec, hres, hregs, hframe⟩ :=
    exists_next_setReg s.consumeRandom x (s.nextRandom &&& nn)
  refine ⟨t, hexec, fun k => ?_, hframe.random, hregs, ?_⟩
  · rw [hres, BitVec.getLsbD_and, State.nextRandom]
  · exact ⟨hframe.i, hframe.pc, hframe.stack, hframe.memory, hframe.display, hframe.timers,
      hframe.fault, hframe.host, rfl⟩

end Sys2Proof.Machine
end

section
/-! PROOFS. The draw (`44_display.md` R111, R112): with its sprite inside memory `DXYN` is one run
of the draw engine, whose law (`plotRows_spec`) says which cells it inverts; so a second one inverts
them back. -/

namespace Sys2Proof.Machine

variable (x y : Reg) (n : Nibble) {s t : State}

/-! ## The two ways a draw goes -/

/-- The sprite of a draw as the engine leaves it: the display and the collision. -/
def drawn (s : State) : Drawing :=
  drawSprite s.fb (drawColumn x s) (drawRow y s) (s.loadRun (baseAddr s) n.toNat)

theorem exec_drw_of_inside (h : n.toNat = 0 ∨ s.i.toNat + n.toNat ≤ memSize) :
    exec (.drw x y n) s = .next ((s.setFb (drawn x y n s).screen).setReg VF
      (flagByte (drawn x y n s).collision)) := by
  have hrun : runFault? (baseAddr s) n.toNat = none := runFault?_eq_none.mpr h
  rw [exec, execDrw, hrun]
  rfl

theorem exec_drw_of_outside {a : Word} (hpc : s.pc = a + 2) (hn : n.toNat > 0)
    (h : s.i.toNat + n.toNat > memSize) :
    exec (.drw x y n) s = .next (AfterFatal .addressError (max s.i.toNat 4096) a s) := by
  have hrun : runFault? (baseAddr s) n.toNat = some (max s.i.toNat 4096) :=
    runFault?_eq_some.mpr ⟨hn, h, rfl⟩
  rw [exec, execDrw, hrun]
  exact raise_eq_afterFatal s hpc _ _

theorem State.setFb_setReg_onlyDisplayAndRegsChange (s : State) (fb : Screen) (b : Byte) :
    OnlyDisplayAndRegsChange s ((s.setFb fb).setReg x b) where
  i := rfl
  pc := rfl
  stack := ⟨rfl, rfl⟩
  memory _ := rfl
  timers := ⟨rfl, rfl⟩
  fault := ⟨rfl, rfl⟩
  host := ⟨rfl, rfl⟩
  random := rfl

/-! ## The cells a sprite covers -/

/-- Column `c` of a sprite byte is its bit `7 - c` (log entry 16). -/
theorem getMsbD_eq_getLsbD_seven_sub (b : Byte) {c : Nat} (hc : c < 8) :
    b.getMsbD c = b.getLsbD (7 - c) := by
  rw [BitVec.getMsbD_eq_getLsbD, decide_eq_true hc, Bool.true_and]

/-- Byte `r` of a run inside memory is the byte at `a + r`. -/
theorem State.loadRun_getElem?_eq_some {a len r : Nat} {b : Byte}
    (h : len = 0 ∨ a + len ≤ memSize) :
    (s.loadRun a len)[r]? = some b ↔ r < len ∧ s.memRead (a + r) = some b := by
  rw [memSize_eq] at h
  rw [List.getElem?_eq_some_iff, State.memRead_eq_some]
  simp only [State.loadRun, Memory.length_getRun, Memory.getElem_getRun, memSize_eq]
  constructor
  · rintro ⟨hr, hb⟩
    exact ⟨hr, by omega, hb⟩
  · rintro ⟨hr, -, hb⟩
    exact ⟨hr, hb⟩

/-- The cells the claims call covered are those the engine plots. -/
theorem spriteCovers_iff_pixelsCover (h : n.toNat = 0 ∨ s.i.toNat + n.toNat ≤ memSize)
    (cx : Fin 64) (cy : Fin 32) :
    SpriteCovers s x y n cx cy ↔
      pixelsCover (drawColumn x s) (drawRow y s) (s.loadRun (baseAddr s) n.toNat) cx cy := by
  constructor
  · rintro ⟨r, c, b, hr, hc, hb, hbit, hx, hy⟩
    exact ⟨r, c, b, (State.loadRun_getElem?_eq_some h).mpr ⟨hr, hb⟩, hc,
      (getMsbD_eq_getLsbD_seven_sub b hc).trans hbit, hx, hy⟩
  · rintro ⟨r, c, b, hb, hc, hbit, hx, hy⟩
    obtain ⟨hr, hb⟩ := (State.loadRun_getElem?_eq_some h).mp hb
    exact ⟨r, c, b, hr, hc, hb, (getMsbD_eq_getLsbD_seven_sub b hc).symm.trans hbit, hx, hy⟩

/-- What the engine does with the sprite of a draw. -/
theorem drawn_spec (h : n.toNat = 0 ∨ s.i.toNat + n.toNat ≤ memSize) :
    (∀ cx cy, Screen.cell (drawn x y n s).screen cx cy = true ↔
      (Screen.cell s.fb cx cy = true ∧ ¬ SpriteCovers s x y n cx cy) ∨
      (Screen.cell s.fb cx cy = false ∧ SpriteCovers s x y n cx cy)) ∧
    ((drawn x y n s).collision = true ↔
      ∃ cx cy, Screen.cell s.fb cx cy = true ∧ SpriteCovers s x y n cx cy) := by
  have hlen : (s.loadRun (baseAddr s) n.toNat).length ≤ 32 := by
    rw [State.loadRun_length]
    omega
  obtain ⟨hcells, hcollision⟩ := plotRows_spec (drawColumn x s) _ (drawRow y s)
    { screen := s.fb, collision := false } hlen
  simp only [spriteCovers_iff_pixelsCover x y n h]
  exact ⟨hcells, hcollision.trans (or_iff_right Bool.false_ne_true)⟩

/-! ## The obligations -/

/-- The condition on the run as the claims write it. -/
theorem run_inside_iff {i : Nat} :
    (n.toNat = 0 ∨ i + n.toNat - 1 ≤ 4095) ↔ n.toNat = 0 ∨ i + n.toNat ≤ memSize := by
  rw [memSize_eq]
  omega

/-- Settles O33: `drawn_spec` for the display and for the collision, which VF holds. -/
theorem drawXorsSprite : Obligations.DrawXorsSprite := by
  intro x y n s h
  have hin := (run_inside_iff n).mp h
  obtain ⟨hcells, hcollision⟩ := drawn_spec x y n hin
  refine ⟨_, exec_drw_of_inside x y n hin, hcells, ?_, fun r hr => State.reg_setReg_ne _ hr _,
    s.setFb_setReg_onlyDisplayAndRegsChange VF _ _⟩
  rw [State.reg_setReg_self, ← hcollision]
  cases hd : (drawn x y n s).collision
  case true => exact .inl ⟨rfl, rfl⟩
  case false =>
    refine .inr ⟨rfl, fun cx cy hcell hcovers => ?_⟩
    exact absurd (hcollision.mpr ⟨cx, cy, hcell, hcovers⟩) (by simp [hd])

/-- Which cells are covered depends on memory, on `I` and on the start coordinates alone. -/
theorem spriteCovers_congr (hmem : KeepsMemory s t) (hi : t.i = s.i)
    (hx : (t.reg x).toNat % 64 = (s.reg x).toNat % 64)
    (hy : (t.reg y).toNat % 32 = (s.reg y).toNat % 32) (cx : Fin 64) (cy : Fin 32) :
    SpriteCovers t x y n cx cy ↔ SpriteCovers s x y n cx cy := by
  have hread (a : Nat) : t.memRead a = s.memRead a := hmem a
  simp only [SpriteCovers, hread, hi, hx, hy]

/-- Settles O34: both draws invert the same cells, so the display is restored and the second
collision is on the covered cells that were 0. -/
theorem drawTwiceRestoresDisplay : Obligations.DrawTwiceRestoresDisplay := by
  intro x y n s t h hexec hx hy
  obtain ⟨t', hexec', hcells, -, -, hframe⟩ := drawXorsSprite x y n s h
  obtain rfl : t' = t := Host.Outcome.next.inj (hexec'.symm.trans hexec)
  have hcovers := spriteCovers_congr x y n hframe.memory hframe.i hx hy
  obtain ⟨u, hexecu, hcellsu, hflag, -, -⟩ := drawXorsSprite x y n t' (hframe.i.symm ▸ h)
  simp only [hcovers] at hcellsu hflag
  -- a covered cell is 1 after the first draw iff it was 0 before it
  have hflip (cx : Fin 64) (cy : Fin 32) (hc : SpriteCovers s x y n cx cy) :
      Screen.cell t'.fb cx cy = true ↔ Screen.cell s.fb cx cy = false := by
    simp [hcells, hc]
  refine ⟨u, hexecu, Screen.ext_of_cells fun cx cy => Bool.eq_iff_iff.mpr ?_, ?_⟩
  · rw [hcellsu, ← Bool.not_eq_true, hcells]
    by_cases hc : SpriteCovers s x y n cx cy <;> simp [hc]
  · rcases hflag with ⟨hone, cx, cy, hcell, hc⟩ | ⟨hzero, hnone⟩
    · exact iff_of_true hone ⟨cx, cy, (hflip cx cy hc).mp hcell, hc⟩
    · refine iff_of_false (by simp [hzero]) ?_
      rintro ⟨cx, cy, hcell, hc⟩
      exact hnone cx cy ((hflip cx cy hc).mpr hcell) hc

end Sys2Proof.Machine
end

section
/-! PROOFS. Index register and memory (`43_index_memory.md`): the arithmetic on `I` (R101, R102),
the runs that leave memory (R106), and what a store of registers gives a later load and the next
fetch (`20_memory.md` R43). -/

namespace Sys2Proof.Machine

variable (x : Reg) {s : State}

/-- Five times a byte fits 16 bits. -/
theorem toNat_zext16_mul_five (b : Byte) : (zext16 b * 5#16).toNat = b.toNat * 5 := by
  rw [BitVec.toNat_mul, toNat_zext16, BitVec.toNat_ofNat]
  omega

/-- Settles O25: each is one write of `I`; only the sum can wrap. -/
theorem indexArithmetic : Obligations.IndexArithmetic := by
  intro x s
  refine ⟨⟨_, rfl, ?_, s.setI_onlyIndexChanges _⟩,
    ⟨_, rfl, toNat_zext16_mul_five _, s.setI_onlyIndexChanges _⟩⟩
  rw [State.setI_i, BitVec.toNat_add, toNat_zext16]

/-- Settles O29: the check of the run comes first, so each of the four is a raise. -/
theorem runOutsideMemoryFaults : Obligations.RunOutsideMemoryFaults := by
  intro x y n s a hpc
  refine ⟨fun hn h => exec_drw_of_outside x y n hpc hn ?_, exec_ldB_of_gt x hpc,
    fun h => ⟨exec_stRegs_of_gt x hpc h, exec_ldRegs_of_gt x hpc h⟩⟩
  rw [memSize_eq]
  omega

/-! ## A store of registers, read again -/

/-- After `FX55` inside memory, register `r` is read back at `I + r`, `I` being the old one. -/
theorem memRead_of_exec_stRegs {t : State} {r : Reg} (hs : MemoryCanonical s)
    (hin : s.i.toNat + x.toNat ≤ 4095) (h : exec (.stRegs x) s = .next t)
    (hr : r.toNat ≤ x.toNat) : t.memRead (s.i.toNat + r.toNat) = some (s.reg r) := by
  rw [exec_stRegs_of_le x s hin] at h
  cases h
  rw [incIndex_memRead]
  exact memRead_storeRun_regRun x s hs hr hin

/-- States with the same memory and configuration read the same bytes. -/
theorem State.memRead_congr {t u : State} (hmem : u.mem = t.mem) (hconfig : u.config = t.config)
    (a : Nat) : u.memRead a = t.memRead a := by
  unfold State.memRead
  rw [hmem, hconfig]

/-- Settles O30: the load reads at `I + r` the byte that the store put there. -/
theorem loadAfterStoreRestoresRegisters : Obligations.LoadAfterStoreRestoresRegisters := by
  intro x s t u hs hin hstore hmem hconfig hi
  have hinu : u.i.toNat + x.toNat ≤ 4095 := hi.symm ▸ hin
  refine ⟨_, exec_ldRegs_of_le x u hinu, fun r hr => ?_, fun r hr => ?_⟩
  · rw [incIndex_reg]
    apply Option.some.inj
    calc some ((u.setRegs (loadedRegs x u)).reg r)
        = u.memRead (u.i.toNat + r.toNat) := reg_setRegs_loadedRegs_of_le x u hr hinu
      _ = t.memRead (s.i.toNat + r.toNat) := by rw [hi, State.memRead_congr hmem hconfig]
      _ = some (s.reg r) := memRead_of_exec_stRegs x hs hin hstore hr
  · rw [incIndex_reg]
    exact reg_setRegs_loadedRegs_of_gt x u hr

/-- Settles O31: the two bytes the fetch reads are those of registers 0 and 1. -/
theorem nextFetchSeesStore : Obligations.NextFetchSeesStore := by
  intro x s hs hx hpc hin
  obtain ⟨t, h⟩ : ∃ t, exec (.stRegs x) s = .next t := ⟨_, exec_stRegs_of_le x s hin⟩
  have hpct : t.pc.toNat = s.i.toNat := by
    rw [exec_stRegs_of_le x s hin] at h
    cases h
    rw [incIndex_pc, State.storeRun_pc, hpc]
  have hhi : t.memRead t.pc.toNat = some (s.reg 0) := by
    rw [hpct]
    exact memRead_of_exec_stRegs (r := 0) x hs hin h (Nat.zero_le _)
  have hlo : t.memRead (t.pc.toNat + 1) = some (s.reg 1) := by
    rw [hpct]
    exact memRead_of_exec_stRegs (r := 1) x hs hin h hx
  exact ⟨t, _, h, t.fetch_eq_some.mpr ⟨_, _, hhi, hlo, rfl⟩, toNat_wordOfBytes _ _⟩

end Sys2Proof.Machine
end

section
/-! PROOFS. Keys (`45_keys_timers.md`): the skips on a key (R115, R116, R121) and the wait for one
(R117). -/

namespace Sys2Proof.Machine

variable (x : Reg) (s : State)

/-! ## The two ways the instructions go -/

theorem exec_skp_of_key {p : Bool} (h : s.keyAt? (s.reg x) = some p) :
    exec (.skp x) s = .next (skipIf p s) := by
  rw [exec, execSkp, h]

theorem exec_sknp_of_key {p : Bool} (h : s.keyAt? (s.reg x) = some p) :
    exec (.sknp x) s = .next (skipIf (!p) s) := by
  rw [exec, execSknp, h]

theorem exec_ldVxK_of_none (h : ∀ k (hk : k < 16), s.key[k] = false) :
    exec (.ldVxK x) s = .next (s.setPc (s.pc - 2#16)) := by
  rw [exec, execLdVxK, s.lowestKey?_eq_none.mpr h]

theorem exec_ldVxK_of_lowest {k : Nat} (hk : k < 16) (h : s.key[k] = true)
    (hlow : ∀ j (hj : j < k), s.key[j] = false) :
    exec (.ldVxK x) s = .next (s.setReg x (BitVec.ofNat 8 k)) := by
  rw [exec, execLdVxK, s.lowestKey?_eq_some.mpr ⟨hk, h, hlow⟩]

/-- The latch of a key, where the index names one. -/
theorem State.keyAt?_of_getElem? {b : Byte} {p : Bool} (h : s.key[b.toNat]? = some p) :
    s.keyAt? b = some p := by
  obtain ⟨hlt, hp⟩ := Vector.getElem?_eq_some_iff.mp h
  rw [s.keyAt?_of_lt hlt, hp]

/-! ## The obligations -/

/-- Settles O35: with `V[X]` at most 15 both are one skip on the latch; above it both raise. -/
theorem skipsOnKey : Obligations.SkipsOnKey := by
  intro x s
  refine ⟨fun p hp => ?_, fun hx a hpc => ?_⟩
  · have hkey := s.keyAt?_of_getElem? hp
    refine ⟨⟨_, exec_skp_of_key x s hkey, skipIf_onlyPcChanges s p, toNat_pc_skipIf s p⟩,
      ⟨_, exec_sknp_of_key x s hkey, skipIf_onlyPcChanges s !p, ?_⟩⟩
    rw [toNat_pc_skipIf]
    cases p <;> rfl
  · have hkey := s.keyAt?_of_ge hx
    constructor
    · rw [exec, execSkp, hkey]
      exact raise_eq_afterFatal s hpc _ _
    · rw [exec, execSknp, hkey]
      exact raise_eq_afterFatal s hpc _ _

/-- Settles O36: with no key pressed the meaning is one write of `PC`, else one write of `V[X]`, and
a key number fits a byte. -/
theorem keyWaitParksOrTakesLowestKey : Obligations.KeyWaitParksOrTakesLowestKey := by
  intro x s
  refine ⟨fun hnone a hpc => ?_, fun k hk hkey hlow => ?_⟩
  · exact ⟨_, exec_ldVxK_of_none x s hnone, s.insnAddr_of_pc hpc, s.setPc_onlyPcChanges _⟩
  · obtain ⟨t, ht, hreg, hregs, hframe⟩ := exists_next_setReg s x (BitVec.ofNat 8 k)
    refine ⟨t, (exec_ldVxK_of_lowest x s hk hkey hlow).trans ht, ?_, hregs, hframe⟩
    rw [hreg, BitVec.toNat_ofNat]
    omega

/-- Settles O37: the wait takes back the advance of `PC`. -/
theorem parkedStepChangesNothing : Obligations.ParkedStepChangesNothing := by
  intro x s hs hf hnone
  rw [step_of_fetch_encode hs hf, exec_ldVxK_of_none x s.advance hnone, State.advance_pc,
    BitVec.add_sub_cancel]
  rfl

end Sys2Proof.Machine
end

section
/-! PROOFS. The host's transactions (`60_exceptions.md` section 8): `SetKey` (R155), `Reset` (R151)
and the first `Step` after a `Load` (`70_reset_and_hazards.md` R163). -/

namespace Sys2Proof.Machine

/-- Settles O43: the transaction is one write of the latches at `k`. -/
theorem setKeyWritesOneLatch : Obligations.SetKeyWritesOneLatch := by
  intro k p s
  refine ⟨s.setKey k p, rfl, ?_, fun j hj => ?_, rfl⟩
  · exact Vector.getElem?_set_self k.isLt
  · exact Vector.getElem?_set_ne k.isLt hj.symm

/-! ## The reset state -/

/-- Memory at reset: what an unlisted address reads as. -/
theorem State.resetWith_memRead (c : Config) (k : Nat) {a : Nat} (h : a < memSize) :
    (State.resetWith c k).memRead a = some (resetByte c a) :=
  State.memRead_of_lt _ h

theorem resetByte_of_lt (c : Config) {a : Nat} (h : a < 80) : resetByte c a = c.font[a] :=
  dif_pos h

theorem resetByte_of_ge (c : Config) {a : Nat} (h : 80 ≤ a) : resetByte c a = 0 :=
  dif_neg (Nat.not_lt.mpr h)

theorem State.resetWith_reg (c : Config) (k : Nat) (r : Reg) :
    (State.resetWith c k).reg r = 0 := by
  simp [State.reg]

/-- Settles O44: the reset state, piece by piece. -/
theorem resetSetsEveryPiece : Obligations.ResetSetsEveryPiece := by
  intro s
  refine ⟨State.resetWith s.config s.draws, rfl, State.resetWith_reg _ _, rfl, rfl,
    fun a h => ?_, fun a h h' => ?_, fun a h => State.memRead_of_ge _ h, rfl, ?_,
    Screen.cell_blank, rfl, rfl, ?_, rfl, rfl, rfl⟩
  · rw [State.resetWith_memRead _ _ (h.trans (by decide)), resetByte_of_lt _ h]
  · rw [State.resetWith_memRead _ _ (Nat.lt_succ_of_le h'), resetByte_of_ge _ h]
  · intro j hj
    simp
  · intro k hk
    simp

/-! ## The first step of a program -/

/-- After `Load` into a state at 0x200, the fetched word is that of the first two bytes of the
image. -/
theorem State.fetch_storeRun_progBase {s : State} (hs : MemoryCanonical s) (hpc : s.pc = 0x200)
    (hi lo : Byte) (rest : List Byte) :
    (s.storeRun progBase (hi :: lo :: rest)).fetch = some (wordOfBytes hi lo) := by
  have hpct : (s.storeRun progBase (hi :: lo :: rest)).pc.toNat = progBase := by
    rw [State.storeRun_pc, hpc]
    rfl
  rw [State.fetch_eq_some, hpct]
  exact ⟨hi, lo, s.memRead_storeRun_add hs (j := 0) (by simp) (by decide),
    s.memRead_storeRun_add hs (j := 1) (by simp) (by decide), rfl⟩

/-- Settles O45: `Reset` sets `PC` to 0x200, where `Load` puts the two bytes of the instruction. -/
theorem loadedProgramRunsFromEntry : Obligations.LoadedProgramRunsFromEntry := by
  intro s i rest hlen
  have hcanonical : MemoryCanonical s.hostReset := Memory.wf_nil s.config
  refine ⟨s.hostReset.storeRun progBase (encodeBytes i ++ rest), ?_, rfl, ?_⟩
  · exact runTransactions_cons s rfl
      (runTransactions_cons _ (transact_load_of_le s.hostReset hlen) rfl)
  · have hf := State.fetch_storeRun_progBase hcanonical rfl ((encode i).extractLsb' 8 8)
      ((encode i).extractLsb' 0 8) rest
    rw [wordOfBytes_bytesOfWord] at hf
    exact step_of_fetch_encode rfl hf

end Sys2Proof.Machine
end

section
/-! PROOFS. The end of a `Step` (`40_fetch_dispatch.md` section 2, `60_exceptions.md` section 2): it
is always a next state, its report agrees with the latch, a fatal condition writes nothing but the
latch, and the latch stays until `Reset`. -/

namespace Sys2Proof.Machine

variable {s t : State}

/-! ## Every meaning answers a next state -/

theorem exists_exec_eq_next (i : Instr) (s : State) : ∃ t, exec i s = .next t := by
  cases i
  case ret | call =>
    simp only [exec, execRet, execCall]
    split <;> exact ⟨_, rfl⟩
  case skp | sknp | ldVxK =>
    simp only [exec, execSkp, execSknp, execLdVxK]
    split <;> exact ⟨_, rfl⟩
  case drw | ldB | stRegs | ldRegs =>
    simp only [exec, execDrw, execLdB, execStRegs, execLdRegs]
    split <;> exact ⟨_, rfl⟩
  all_goals exact ⟨_, rfl⟩

theorem exists_step_eq_next (s : State) : ∃ t, step s = .next t := by
  unfold step
  split
  · exact ⟨_, rfl⟩
  · split
    · exact ⟨_, rfl⟩
    · split
      · exact ⟨_, rfl⟩
      · exact exists_exec_eq_next _ _

/-- Settles O10: both are total. -/
theorem stepAlwaysAnswersNext : Obligations.StepAlwaysAnswersNext :=
  ⟨exists_step_eq_next, exists_exec_eq_next⟩

/-! ## The report and the latch -/

/-- A word is fetched only with both of its bytes inside memory. -/
theorem State.pc_succ_lt_of_fetch {w : Word} (hf : s.fetch = some w) : s.pc.toNat + 1 < 4096 := by
  by_contra hpc
  have hnone : s.fetch = none := s.fetch_of_ge (Nat.not_lt.mp hpc)
  simp [hnone] at hf

/-- The two ways the instruction of a `Step` goes: it raises a condition at its own address, which
is latched in the advanced state, or it leaves the latch clear and the report `Ok`. -/
theorem exec_advance_cases {i : Instr} (hs : s.fault = none) (h : exec i s.advance = .next t) :
    (∃ c info, t = s.advance.latch c info s.pc) ∨ (t.fault = none ∧ t.outcome = .ok) := by
  rcases exec_cases h with ⟨c, info, rfl⟩ | ⟨hfault, hout⟩
  · exact .inl ⟨c, info, by rw [State.insnAddr_advance]⟩
  · exact .inr ⟨hfault.trans hs, hout⟩

/-- Settles O51: each of the four ways of a `Step` has its own report. -/
theorem outcomeAgreesWithLatch : Obligations.OutcomeAgreesWithLatch := by
  intro s t h
  rcases step_cases h with ⟨c, hs, rfl⟩ | ⟨hs, -, rfl⟩ | ⟨w, e, hs, hf, -, rfl⟩ |
    ⟨w, i, hs, hf, -, he⟩
  · exact ⟨hs, hs⟩
  · exact ⟨hs, rfl, rfl⟩
  · exact ⟨hs, hs, hf⟩
  · rcases exec_advance_cases hs he with ⟨c, info, rfl⟩ | ⟨hfault, hout⟩
    · exact ⟨hs, rfl, rfl⟩
    · rw [hout]
      exact ⟨hs, hfault⟩

/-- Settles O52: the report is `Fatal` after a fetch fault or after an instruction that raised, and
each of the two latches the condition and writes nothing else. -/
theorem fatalStepHasNoPartialEffect : Obligations.FatalStepHasNoPartialEffect := by
  intro s t c info a h hout
  rcases step_cases h with ⟨c', -, rfl⟩ | ⟨-, hf, rfl⟩ | ⟨w, e, -, -, -, rfl⟩ |
    ⟨w, i, hs, hf, -, he⟩
  · cases hout
  · cases hout
    have hpc : s.pc.toNat ≥ 4095 := Nat.le_of_succ_le_succ (s.fetch_eq_none.mp hf)
    exact ⟨rfl, (if_pos hpc).symm⟩
  · cases hout
  · rcases exec_advance_cases hs he with ⟨c', info', rfl⟩ | ⟨-, hok⟩
    · cases hout
      have hpc : ¬ s.pc.toNat ≥ 4095 :=
        Nat.not_le.mpr (Nat.lt_of_succ_lt_succ (State.pc_succ_lt_of_fetch hf))
      exact ⟨rfl, (if_neg hpc).symm⟩
    · rw [hok] at hout
      cases hout

/-! ## A latched condition -/

/-- From `s` to `t` the condition `c` is latched and nothing moves but what the host itself writes:
memory, the keys and the timers. -/
structure StaysHalted (c : Fault) (s t : State) : Prop where
  fault : t.fault = some c
  v : t.v = s.v
  i : t.i = s.i
  pc : t.pc = s.pc
  sp : t.sp = s.sp
  stack : t.stack = s.stack
  fb : t.fb = s.fb
  config : t.config = s.config
  draws : t.draws = s.draws

theorem StaysHalted.trans {c : Fault} {u : State} (h₁ : StaysHalted c s t)
    (h₂ : StaysHalted c t u) : StaysHalted c s u where
  fault := h₂.fault
  v := h₂.v.trans h₁.v
  i := h₂.i.trans h₁.i
  pc := h₂.pc.trans h₁.pc
  sp := h₂.sp.trans h₁.sp
  stack := h₂.stack.trans h₁.stack
  fb := h₂.fb.trans h₁.fb
  config := h₂.config.trans h₁.config
  draws := h₂.draws.trans h₁.draws

/-- No transaction but `Reset` moves a halted machine: a `Step` only reports, and the others write
no piece of the list. -/
theorem transact_staysHalted {c : Fault} {x : Transaction} {r : Response} (hs : s.fault = some c)
    (hx : x ≠ .reset) (h : transact x s = .next (r, t)) : StaysHalted c s t := by
  cases x
  case reset => exact absurd rfl hx
  case step =>
    have hstep := (transact_step_inv s h).1
    rw [step_of_fault hs] at hstep
    cases hstep
    exact ⟨hs, rfl, rfl, rfl, rfl, rfl, rfl, rfl, rfl⟩
  case load bytes =>
    rcases transact_load_inv h with ⟨-, -, rfl⟩ | ⟨-, -, rfl⟩ <;>
      exact ⟨hs, rfl, rfl, rfl, rfl, rfl, rfl, rfl, rfl⟩
  case tickTimers | setKey | readDisplay | readSoundActive =>
    cases h
    exact ⟨hs, rfl, rfl, rfl, rfl, rfl, rfl, rfl, rfl⟩

theorem runTransactions_staysHalted {c : Fault} (xs : List Transaction) {s t : State}
    {rs : List Response} (hs : s.fault = some c) (hreset : .reset ∉ xs)
    (h : runTransactions xs s = .next (rs, t)) : StaysHalted c s t := by
  induction xs generalizing s rs with
  | nil =>
    cases h
    exact ⟨hs, rfl, rfl, rfl, rfl, rfl, rfl, rfl, rfl⟩
  | cons x xs ih =>
    obtain ⟨r, rs, u, hx, hxs, -⟩ := runTransactions_cons_inv s h
    obtain ⟨hne, hreset⟩ := List.ne_and_not_mem_of_not_mem_cons hreset
    have hu : StaysHalted c s u := transact_staysHalted hs (Ne.symm hne) hx
    exact hu.trans (ih hu.fault hreset hxs)

/-- Settles O46: `runTransactions_staysHalted`, field by field. -/
theorem faultSticksUntilReset : Obligations.FaultSticksUntilReset := by
  intro xs s t rs c hs hreset h
  have hst := runTransactions_staysHalted xs hs hreset h
  exact ⟨hst.fault, hst.v, hst.i, hst.pc, hst.sp, hst.stack, hst.fb, hst.config, hst.draws⟩

end Sys2Proof.Machine
end

section
/-! PROOFS. The invariants of the machine: the canonical form of memory (`20_memory.md`, log entry
7) and the range of `PC` and of the return addresses (`10_state.md` R13, R15). Each step lemma asks
the writer matrix (`10_state.md` R26) who writes the piece, so only the writers are looked at. -/

namespace Sys2Proof.Machine

variable {s t : State}

/-! ## Canonical memory -/

/-- `FX33` and `FX55` are the only instructions that write memory. -/
theorem memory_mem_stepWrites {inc : Bool} {i : Instr} (h : .memory ∈ stepWrites inc i) :
    ∃ x, i = .ldB x ∨ i = .stRegs x := by
  cases i
  case ldB x => exact ⟨x, .inl rfl⟩
  case stRegs x => exact ⟨x, .inr rfl⟩
  case ldRegs => simp [mem_stepWrites_ldRegs] at h
  all_goals simp [stepWrites] at h

/-- Canonical memory is a fact about the memory and the configuration alone. -/
theorem MemoryCanonical.congr (hs : MemoryCanonical s) (hmem : t.mem = s.mem)
    (hconfig : t.config = s.config) : MemoryCanonical t := by
  rw [MemoryCanonical, hmem, hconfig]
  exact hs

theorem exec_ldB_memoryCanonical {x : Reg} (hs : MemoryCanonical s)
    (h : exec (.ldB x) s = .next t) : MemoryCanonical t := by
  rw [exec, execLdB] at h
  split at h
  case h_1 => exact raise_inv h ▸ hs
  case h_2 hrun =>
    injection h with h
    have hin := (runFault?_eq_none.mp hrun).resolve_left (by decide)
    exact h ▸ s.storeRun_wf hs (.inr hin)

theorem exec_stRegs_memoryCanonical {x : Reg} (hs : MemoryCanonical s)
    (h : exec (.stRegs x) s = .next t) : MemoryCanonical t := by
  rw [exec, execStRegs] at h
  split at h
  case h_1 => exact raise_inv h ▸ hs
  case h_2 hrun =>
    injection h with h
    have hin := (runFault?_eq_none.mp hrun).resolve_left (Nat.succ_ne_zero _)
    have hstore : MemoryCanonical (s.storeRun (baseAddr s) (regRun x s)) :=
      s.storeRun_wf hs (.inr (by rwa [regRun_length]))
    exact h ▸ hstore.congr (incIndex_mem _ x) (incIndex_config _ x)

/-- An instruction that writes memory stores a run that was found to lie inside it. -/
theorem exec_memoryCanonical {i : Instr} (hs : MemoryCanonical s) (h : exec i s = .next t) :
    MemoryCanonical t := by
  by_cases hsame : Piece.memory.Same s t
  · exact hs.congr hsame (exec_changesOnly h).config
  · obtain ⟨x, rfl | rfl⟩ := memory_mem_stepWrites ((exec_changesOnly h).allowed _ hsame)
    · exact exec_ldB_memoryCanonical hs h
    · exact exec_stRegs_memoryCanonical hs h

/-- Settles O48: only the instruction of a `Step` writes memory. -/
theorem stepKeepsMemoryCanonical : Obligations.StepKeepsMemoryCanonical := by
  intro s t hs h
  rcases step_cases h with ⟨c, -, rfl⟩ | ⟨-, -, rfl⟩ | ⟨w, e, -, -, -, rfl⟩ | ⟨w, i, -, -, -, he⟩
  · exact hs
  · exact hs
  · exact hs
  · exact exec_memoryCanonical (s := s.advance) hs he

/-- Settles O49: beside `Step`, `Reset` empties the list and `Load` stores at most 3584 bytes at
0x200; the other transactions write no memory. -/
theorem transactionsKeepMemoryCanonical : Obligations.TransactionsKeepMemoryCanonical := by
  intro x s t r hs h
  cases x
  case reset =>
    cases h
    exact Memory.wf_nil _
  case load bytes =>
    rcases transact_load_inv h with ⟨hlen, -, rfl⟩ | ⟨-, -, rfl⟩
    · exact s.storeRun_wf hs (.inr (Nat.add_le_add_left hlen progBase))
    · exact hs
  case step => exact stepKeepsMemoryCanonical s t hs (transact_step_inv s h).1
  case tickTimers | setKey | readDisplay | readSoundActive =>
    cases h
    exact hs

/-! ## The range of `PC` and of the return addresses -/

/-- The call and the return are the only instructions that write the call stack. -/
theorem callStack_mem_stepWrites {inc : Bool} {i : Instr} (h : .callStack ∈ stepWrites inc i) :
    i = .ret ∨ ∃ nnn, i = .call nnn := by
  cases i
  case ret => exact .inl rfl
  case call nnn => exact .inr ⟨nnn, rfl⟩
  case stRegs => simp [mem_stepWrites_stRegs] at h
  case ldRegs => simp [mem_stepWrites_ldRegs] at h
  all_goals simp [stepWrites] at h

/-- What an instruction can do to the slots of the stack: nothing, or the push of `PC` (R77). -/
theorem exec_stack_cases {i : Instr} (h : exec i s = .next t) :
    t.stack = s.stack ∨ ∃ hsp : s.sp.val < 16, t.stack = s.stack.set s.sp.val s.pc hsp := by
  by_cases hsame : Piece.callStack.Same s t
  · exact .inl hsame.2
  · rcases callStack_mem_stepWrites ((exec_changesOnly h).allowed _ hsame) with rfl | ⟨nnn, rfl⟩
    · rw [exec, execRet] at h
      rcases s.pop?_cases with ⟨-, hp⟩ | ⟨_, hp⟩ <;> rw [hp] at h <;> cases h <;> exact .inl rfl
    · rw [exec, execCall] at h
      rcases s.push?_cases s.pc with ⟨-, hp⟩ | ⟨hsp, hp⟩ <;> rw [hp] at h <;> cases h
      · exact .inl rfl
      · exact .inr ⟨hsp, rfl⟩

/-- What an instruction can do to `PC`: leave it, skip, park, jump to `NNN`, to `V[0] + NNN` or to a
slot of the stack. -/
inductive NextPc (s : State) : Word → Prop
  | stays : NextPc s s.pc
  | skips : NextPc s (s.pc + 2#16)
  | parks : NextPc s (s.pc - 2#16)
  | jumps (nnn : Addr12) : NextPc s (immAddr nnn)
  | jumpsIndexed (b : Byte) (nnn : Addr12) : NextPc s (zext16 b + immAddr nnn)
  | returns (j : Nat) (hj : j < 16) : NextPc s s.stack[j]

theorem NextPc.skipIf (s : State) (q : Bool) : NextPc s (skipIf q s).pc := by
  cases q
  · exact .stays
  · exact .skips

theorem exec_nextPc {i : Instr} (h : exec i s = .next t) : NextPc s t.pc := by
  by_cases hsame : Piece.pc.Same s t
  · rw [show t.pc = s.pc from hsame]
    exact .stays
  have hw := (exec_changesOnly h).allowed _ hsame
  cases i
  case jp nnn =>
    cases h
    exact .jumps nnn
  case jpV0 nnn =>
    cases h
    exact .jumpsIndexed _ nnn
  case seImm | sneImm | seReg | sneReg =>
    cases h
    exact .skipIf s _
  case skp | sknp =>
    simp only [exec, execSkp, execSknp] at h
    split at h <;> cases h
    · exact .skipIf s _
    · exact .stays
  case ldVxK =>
    rw [exec, execLdVxK] at h
    split at h <;> cases h
    · exact .stays
    · exact .parks
  case call nnn =>
    rw [exec, execCall] at h
    rcases s.push?_cases s.pc with ⟨-, hp⟩ | ⟨_, hp⟩ <;> rw [hp] at h <;> cases h
    · exact .stays
    · exact .jumps nnn
  case ret =>
    rw [exec, execRet] at h
    rcases s.pop?_cases with ⟨-, hp⟩ | ⟨_, hp⟩ <;> rw [hp] at h <;> cases h
    · exact .stays
    · exact .returns _ _
  case stRegs => simp [mem_stepWrites_stRegs] at hw
  case ldRegs => simp [mem_stepWrites_ldRegs] at hw
  all_goals simp [stepWrites] at hw

section
variable (hs : PcBounded s) (hmem : s.pc.toNat + 1 < 4096)
include hs hmem

/-- After a fetch from inside memory `PC` is at most 4096, so a skip takes it to at most 4098. -/
theorem NextPc.toNat_le {w : Word} (h : NextPc s.advance w) : w.toNat ≤ 0x10FE := by
  have hadv : (s.pc + 2#16).toNat = s.pc.toNat + 2 := State.toNat_pc_add_two hmem
  cases h with
  | stays =>
    rw [State.advance_pc, hadv]
    omega
  | skips =>
    rw [State.advance_pc, BitVec.toNat_add, hadv, BitVec.toNat_ofNat]
    omega
  | parks =>
    rw [State.advance_pc, BitVec.add_sub_cancel]
    exact hs.pc
  | jumps nnn =>
    rw [toNat_immAddr]
    omega
  | jumpsIndexed b nnn =>
    rw [toNat_zext16_add_immAddr]
    omega
  | returns j hj => exact (hs.stack j hj).trans (by decide)

/-- An instruction fetched from inside memory keeps the bounds: a call pushes a `PC` of at most
4096. -/
theorem exec_advance_pcBounded {i : Instr} (h : exec i s.advance = .next t) : PcBounded t where
  pc := (exec_nextPc h).toNat_le hs hmem
  stack j hj := by
    rcases exec_stack_cases h with hstack | ⟨hsp, hstack⟩
    · simp only [hstack]
      exact hs.stack j hj
    · have hadv : (s.pc + 2#16).toNat = s.pc.toNat + 2 := State.toNat_pc_add_two hmem
      simp only [hstack, Vector.getElem_set, State.advance_pc]
      split
      · omega
      · exact hs.stack j hj

end

/-- Settles O50: a `Step` fetches only below 4095, so what it adds to `PC` and pushes stays at most
4098; the largest `PC` is a `BNNN`'s, 0xFF + 0xFFF. -/
theorem stepKeepsPcBounded : Obligations.StepKeepsPcBounded := by
  intro s t hs h
  rcases step_cases h with ⟨c, -, rfl⟩ | ⟨-, -, rfl⟩ | ⟨w, e, -, hf, -, rfl⟩ |
    ⟨w, i, -, hf, -, he⟩
  · exact ⟨hs.pc, hs.stack⟩
  · exact ⟨hs.pc, hs.stack⟩
  · have hmem := State.pc_succ_lt_of_fetch hf
    have hadv : (s.pc + 2#16).toNat = s.pc.toNat + 2 := State.toNat_pc_add_two hmem
    refine ⟨?_, hs.stack⟩
    rw [State.reportUnimplemented_pc, hadv]
    omega
  · exact exec_advance_pcBounded hs (State.pc_succ_lt_of_fetch hf) he

/-! ## The reset state -/

theorem State.resetWith_pcBounded (c : Config) (k : Nat) : PcBounded (State.resetWith c k) where
  pc := by simp
  stack j hj := by simp

/-- Settles O47: memory is the empty list, `PC` is 0x200 and every slot is 0. -/
theorem resetHasInvariants : Obligations.ResetHasInvariants := by
  have hreset (c : Config) (k : Nat) : MemoryCanonical (State.resetWith c k) ∧
      PcBounded (State.resetWith c k) ∧ (State.resetWith c k).fault = none :=
    ⟨Memory.wf_nil c, State.resetWith_pcBounded c k, rfl⟩
  exact ⟨hreset Config.default 0, hreset⟩

end Sys2Proof.Machine
end

section
/-! PROOFS. Noninterference (`10_state.md` R15, R20): an instruction that does not write the sound
timer, or the call stack, does not read it either, so other contents of it are carried along
unchanged. What is left are `FX18`, which overwrites the timer, and the call and the return, which
touch no slot above `SP` but the one they push. -/

namespace Sys2Proof.Machine

variable {s t : State}

/-! ## Other contents of a piece that a `Step` is not to read -/

/-- Other contents of the sound timer or of the slots of the stack. -/
inductive HiddenWrite where
  | sound (b : Byte)
  | slots (k : Vector Word 16)

/-- The state with those contents. -/
def HiddenWrite.apply : HiddenWrite → State → State
  | .sound b, s => { s with st := b }
  | .slots k, s => { s with stack := k }

/-- The row of the writer matrix that the contents belong to. -/
def HiddenWrite.piece : HiddenWrite → Piece
  | .sound _ => .sound
  | .slots _ => .callStack

/-- A function applied to the next state of a result. -/
def mapNext (f : State → State) : Result → Result
  | .next s => .next (f s)
  | .fault e => .fault e
  | .refused e => .refused e

section
variable (d : HiddenWrite) (s : State)

@[simp] theorem HiddenWrite.apply_reg (x : Reg) : (d.apply s).reg x = s.reg x := by cases d <;> rfl
@[simp] theorem HiddenWrite.apply_fault : (d.apply s).fault = s.fault := by cases d <;> rfl
@[simp] theorem HiddenWrite.apply_fetch : (d.apply s).fetch = s.fetch := by cases d <;> rfl
@[simp] theorem HiddenWrite.apply_advance : (d.apply s).advance = d.apply s.advance := by
  cases d <;> rfl
@[simp] theorem HiddenWrite.apply_pc : (d.apply s).pc = s.pc := by cases d <;> rfl
@[simp] theorem HiddenWrite.apply_baseAddr : baseAddr (d.apply s) = baseAddr s := by cases d <;> rfl
@[simp] theorem HiddenWrite.apply_keyAt? (k : Byte) : (d.apply s).keyAt? k = s.keyAt? k := by
  cases d <;> rfl
@[simp] theorem HiddenWrite.apply_lowestKey? : (d.apply s).lowestKey? = s.lowestKey? := by
  cases d <;> rfl

@[simp] theorem HiddenWrite.apply_regRun (x : Reg) : regRun x (d.apply s) = regRun x s := by
  cases d <;> rfl
@[simp] theorem HiddenWrite.apply_loadedRegs (x : Reg) :
    loadedRegs x (d.apply s) = loadedRegs x s := by
  cases d <;> rfl

theorem HiddenWrite.apply_storeRun (a : Nat) (bs : List Byte) :
    (d.apply s).storeRun a bs = d.apply (s.storeRun a bs) := by
  cases d <;> rfl

theorem HiddenWrite.apply_setRegs (v : Vector Byte 16) :
    (d.apply s).setRegs v = d.apply (s.setRegs v) := by
  cases d <;> rfl

theorem HiddenWrite.apply_skipIf (q : Bool) : skipIf q (d.apply s) = d.apply (skipIf q s) := by
  cases d <;> cases q <;> rfl

theorem HiddenWrite.apply_incIndex (x : Reg) : incIndex x (d.apply s) = d.apply (incIndex x s) := by
  cases d <;>
  · unfold incIndex
    cases hinc : s.config.indexInc <;> simp only [HiddenWrite.apply, hinc] <;> rfl

theorem HiddenWrite.sound_pop? (b : Byte) : ((HiddenWrite.sound b).apply s).pop? =
    s.pop?.map fun p => (p.1, (HiddenWrite.sound b).apply p.2) := by
  unfold State.pop?
  by_cases h : 0 < s.sp.val <;> simp [HiddenWrite.apply, h]

theorem HiddenWrite.sound_push? (b : Byte) : ((HiddenWrite.sound b).apply s).push? s.pc =
    (s.push? s.pc).map (HiddenWrite.sound b).apply := by
  unfold State.push?
  by_cases h : s.sp.val < 16 <;> simp [HiddenWrite.apply, h]

end

/-! ## Instructions and steps that do not write the piece -/

/-- An instruction that does not write the piece runs alike whatever it holds. -/
theorem exec_apply (d : HiddenWrite) {i : Instr} {inc : Bool} (hd : d.piece ∉ stepWrites inc i)
    (s : State) : exec i (d.apply s) = mapNext d.apply (exec i s) := by
  cases i
  case ret =>
    cases d
    case sound b =>
      simp only [exec, execRet, HiddenWrite.sound_pop?]
      cases s.pop? <;> rfl
    case slots => simp [stepWrites, HiddenWrite.piece] at hd
  case call =>
    cases d
    case sound b =>
      simp only [exec, execCall, HiddenWrite.apply_pc, HiddenWrite.sound_push?]
      cases s.push? s.pc <;> rfl
    case slots => simp [stepWrites, HiddenWrite.piece] at hd
  case ldStVx =>
    cases d
    case sound => simp [stepWrites, HiddenWrite.piece] at hd
    case slots => rfl
  case seImm | sneImm | seReg | sneReg =>
    simp only [exec, execSeImm, execSneImm, execSeReg, execSneReg, HiddenWrite.apply_reg,
      HiddenWrite.apply_skipIf]
    rfl
  case skp x | sknp x =>
    simp only [exec, execSkp, execSknp, HiddenWrite.apply_reg, HiddenWrite.apply_keyAt?,
      HiddenWrite.apply_skipIf]
    cases s.keyAt? (s.reg x)
    · cases d <;> rfl
    · rfl
  case ldVxK =>
    simp only [exec, execLdVxK, HiddenWrite.apply_lowestKey?]
    cases s.lowestKey? <;> cases d <;> rfl
  case drw x y n =>
    simp only [exec, execDrw, HiddenWrite.apply_baseAddr]
    cases runFault? (baseAddr s) n.toNat <;> cases d <;> rfl
  case ldB =>
    simp only [exec, execLdB, HiddenWrite.apply_baseAddr]
    cases runFault? (baseAddr s) 3 <;> cases d <;> rfl
  case stRegs x =>
    simp only [exec, execStRegs, HiddenWrite.apply_baseAddr, HiddenWrite.apply_regRun,
      HiddenWrite.apply_storeRun, HiddenWrite.apply_incIndex]
    cases runFault? (baseAddr s) (x.toNat + 1)
    · rfl
    · cases d <;> rfl
  case ldRegs x =>
    simp only [exec, execLdRegs, HiddenWrite.apply_baseAddr, HiddenWrite.apply_loadedRegs,
      HiddenWrite.apply_setRegs, HiddenWrite.apply_incIndex]
    cases runFault? (baseAddr s) (x.toNat + 1)
    · rfl
    · cases d <;> rfl
  all_goals cases d <;> rfl

/-- A `Step` whose instruction does not write the piece goes alike whatever it holds: the halt
check, the fetch and the decode read no such piece (`40_fetch_dispatch.md` R65, R69). -/
theorem step_apply (d : HiddenWrite)
    (hd : ∀ i, RunsNext s i → d.piece ∉ stepWrites s.config.indexInc i) (h : step s = .next t) :
    step (d.apply s) = .next (d.apply t) := by
  have hfault := d.apply_fault s
  have hfetch := d.apply_fetch s
  rcases step_cases h with ⟨c, hs, rfl⟩ | ⟨hs, hf, rfl⟩ | ⟨w, e, hs, hf, he, rfl⟩ |
    ⟨w, i, hs, hf, hi, hexec⟩
  · rw [step_of_fault (hfault.trans hs)]
    cases d <;> rfl
  · rw [step_of_fetch_none (hfault.trans hs) (hfetch.trans hf)]
    cases d <;> rfl
  · rw [step_of_unmatched (hfault.trans hs) (hfetch.trans hf) he]
    cases d <;> rfl
  · rw [step_of_instr (hfault.trans hs) (hfetch.trans hf) hi, d.apply_advance,
      exec_apply d (hd i ⟨hs, w, hf, hi⟩), hexec]
    rfl

/-- The step of a state with other contents of the piece, where the instruction does write the
piece. -/
theorem step_apply_of_runsNext (d : HiddenWrite) {i : Instr} (hi : RunsNext s i) :
    step s = exec i s.advance ∧ step (d.apply s) = exec i (d.apply s.advance) := by
  obtain ⟨hs, w, hf, hdec⟩ := hi
  refine ⟨step_of_instr hs hf hdec, ?_⟩
  rw [step_of_instr ((d.apply_fault s).trans hs) ((d.apply_fetch s).trans hf) hdec,
    d.apply_advance]

/-- A `Step` whose instruction does not write the call stack keeps `SP` and the slots. -/
theorem step_keeps_callStack
    (hnot : ∀ i, RunsNext s i → Piece.callStack ∉ stepWrites s.config.indexInc i)
    (h : step s = .next t) : KeepsStack s t := by
  by_contra hchanged
  rcases (step_changesOnly h).allowed .callStack hchanged with ⟨hp, -⟩ | ⟨hp, -⟩ | ⟨i, hi, hmem⟩
  · cases hp
  · cases hp
  · exact hnot i hi hmem

/-! ## The sound timer -/

/-- Settles O54: `FX18` writes `V[X]` to `ST` whatever it held; every other `Step` carries the other
value along. -/
theorem soundTimerNeverInfluencesStep : Obligations.SoundTimerNeverInfluencesStep := by
  intro s t b h
  by_cases hrun : ∃ x, RunsNext s (.ldStVx x)
  · obtain ⟨x, hx⟩ := hrun
    obtain ⟨hstep, hstep'⟩ := step_apply_of_runsNext (.sound b) hx
    exact ⟨t.st, hstep'.trans (hstep.symm.trans h)⟩
  · refine ⟨b, step_apply (.sound b) (fun i hi hmem => ?_) h⟩
    obtain ⟨x, rfl⟩ := sound_mem_stepWrites hmem
    exact hrun ⟨x, hi⟩

/-! ## Dead slots of the stack -/

/-- Two stacks agree in the slots below `n`. -/
def SlotsAgreeBelow (n : Nat) (k l : Vector Word 16) : Prop :=
  ∀ j (h : j < 16), j < n → k[j] = l[j]

/-- A call writes the one slot that it brings to life, with a `PC` that is the same in both states.
-/
theorem exec_call_slots {nnn : Addr12} {a : Word} {k : Vector Word 16}
    (hk : SlotsAgreeBelow s.sp.val k s.stack) (hpc : s.pc = a + 2)
    (h : exec (.call nnn) s = .next t) :
    ∃ k', exec (.call nnn) { s with stack := k } = .next { t with stack := k' } ∧
      SlotsAgreeBelow t.sp.val k' t.stack := by
  by_cases hsp : s.sp.val < 16
  · rw [exec_call_of_lt nnn hsp] at h
    cases h
    refine ⟨_, exec_call_of_lt (s := { s with stack := k }) nnn hsp, fun j hj hlt => ?_⟩
    have hj' : j < s.sp.val + 1 := hlt
    simp only [State.setPc_stack, Vector.getElem_set]
    split
    · rfl
    · exact hk j hj (by omega)
  · have hfull : s.sp.val = 16 := by omega
    rw [exec_call_of_full nnn hpc hfull] at h
    cases h
    exact ⟨k, exec_call_of_full (s := { s with stack := k }) nnn hpc hfull, hk⟩

/-- A return reads the slot below `SP`, which is live. -/
theorem exec_ret_slots {a : Word} {k : Vector Word 16}
    (hk : SlotsAgreeBelow s.sp.val k s.stack) (hpc : s.pc = a + 2)
    (h : exec .ret s = .next t) :
    ∃ k', exec .ret { s with stack := k } = .next { t with stack := k' } ∧
      SlotsAgreeBelow t.sp.val k' t.stack := by
  by_cases hsp : 0 < s.sp.val
  · rw [exec_ret_of_pos hsp] at h
    cases h
    refine ⟨k, ?_, fun j hj hlt => hk j hj (Nat.lt_of_lt_pred hlt)⟩
    have hlive : k[s.sp.val - 1] = s.stack[s.sp.val - 1] := hk _ (by omega) (by omega)
    rw [exec_ret_of_pos (s := { s with stack := k }) hsp]
    simp only [hlive]
    rfl
  · have hempty : s.sp.val = 0 := by omega
    rw [exec_ret_of_empty hpc hempty] at h
    cases h
    exact ⟨k, exec_ret_of_empty (s := { s with stack := k }) hpc hempty, hk⟩

/-- Settles O55: the call and the return by the two lemmas above; every other `Step` leaves `SP` and
the slots and carries the other contents along. -/
theorem deadStackSlotsNeverInfluenceStep : Obligations.DeadStackSlotsNeverInfluenceStep := by
  intro s t k hk h
  by_cases hret : RunsNext s .ret
  · obtain ⟨hstep, hstep'⟩ := step_apply_of_runsNext (.slots k) hret
    obtain ⟨k', hexec, hk'⟩ := exec_ret_slots (s := s.advance) hk rfl (hstep.symm.trans h)
    exact ⟨k', hstep'.trans hexec, hk'⟩
  by_cases hcall : ∃ nnn, RunsNext s (.call nnn)
  · obtain ⟨nnn, hcall⟩ := hcall
    obtain ⟨hstep, hstep'⟩ := step_apply_of_runsNext (.slots k) hcall
    obtain ⟨k', hexec, hk'⟩ := exec_call_slots (s := s.advance) hk rfl (hstep.symm.trans h)
    exact ⟨k', hstep'.trans hexec, hk'⟩
  have hnot : ∀ i, RunsNext s i → Piece.callStack ∉ stepWrites s.config.indexInc i := by
    intro i hi hmem
    rcases callStack_mem_stepWrites hmem with rfl | ⟨nnn, rfl⟩
    · exact hret hi
    · exact hcall ⟨nnn, hi⟩
  obtain ⟨hsp, hstack⟩ := step_keeps_callStack hnot h
  refine ⟨k, step_apply (.slots k) hnot h, fun j hj hlt => ?_⟩
  simp only [hstack]
  exact hk j hj (hsp ▸ hlt)

end Sys2Proof.Machine
end
